-- ==== Sys2Proof/Word.lean ====
section
/-! DEFINITION. The unit of data: the byte. A byte sequence of the spec (00_scope.md R10) is a `List Byte`, index 0 first. -/

namespace Sys2Proof

/-- A byte: "an unsigned integer 0 to 255" (R9), bit 0 the least significant. -/
abbrev Byte := BitVec 8

end Sys2Proof
end

