-- ==== Sys2Proof/Config.lean ====
section
/-! DEFINITION. What is fixed when the block is built (00_scope.md R6, R262), and the values the spec leaves unspecified. -/

namespace Sys2Proof

/-- A CRC parameter record of width `W` (42_crc_engines.md R140). The block has the widths 16 and 32; R142 and R143 are
stated for 8 and more, and below that log entry 14 says what the functions give. -/
structure CrcParams (W : Nat) where
  /-- the generator polynomial without its `x^W` term, bit `i` the coefficient of `x^i` -/
  poly : BitVec W
  /-- the register's value after initialisation -/
  init : BitVec W
  /-- true when each input byte is processed least-significant bit first -/
  refin : Bool
  /-- true when the register is bit-reflected before the final XOR -/
  refout : Bool
  /-- the value XORed into the result -/
  xorout : BitVec W
  deriving DecidableEq, Repr

/-- The byte-stuffing instance (R6; 41_frame_codec.md R103 and R125). -/
inductive StuffAlg where
  | cobs
  | cobsr
  deriving DecidableEq, Repr

/-- The order of the two checksum bytes in the raw frame (R6, R12; 20_memory.md R54). -/
inductive CksumOrder where
  | le
  | be
  deriving DecidableEq, Repr

/-- The implementation parameters of R6. The bound `0 <= MaxPayload <= 65000` is part of the type, so no
block outside it can be written down. -/
structure Config where
  maxPayload : Fin 65001
  p16 : CrcParams 16
  p32 : CrcParams 32
  stuffAlg : StuffAlg
  cksumOrder : CksumOrder
  deriving DecidableEq, Repr

/-- FREE VALUE (log entry 4): what `C16_STATE` holds after the n-th SYS.RESET, which 44_system.md R201 leaves
unspecified. -/
opaque Config.unspecified16 : Nat → BitVec 16

/-- FREE VALUE (log entry 4): what `C32_STATE` holds after the n-th SYS.RESET (R201). -/
opaque Config.unspecified32 : Nat → BitVec 32

end Sys2Proof
end

