-- ==== Sys2Proof/Machine/Crc.lean ====
section
/-! DEFINITION. The parametric CRC (42_crc_engines.md R140 to R144), for every parameter record of a width of 8 bits
or more. The functions are total in the width; what the byte step gives below 8 bits is the model's choice (log entry
14). -/

namespace Sys2Proof.Machine

/-- `reflect_W(v)`: bit `i` of the result is bit `W - 1 - i` of `v` (00_scope.md R11). -/
def reflect {W : Nat} (v : BitVec W) : BitVec W := v.reverse

/-- `CrcInit(P) = P.init` (R141). -/
def crcInit {W : Nat} (P : CrcParams W) : BitVec W := P.init

/-- One of the eight shifts of the byte step (R142): the bit shifted out decides whether `poly` is XORed in. -/
def crcShift {W : Nat} (P : CrcParams W) (s : BitVec W) : BitVec W :=
  if s.msb then (s <<< 1) ^^^ P.poly else s <<< 1

/-- `CrcByte(P, s, b)` (R142): the byte, reflected when `refin`, enters the top eight bits; then eight shifts.
The rule needs `W >= 8` (R140). DESIGN CHOICE (log entry 14): below that the byte is cut to its low `W` bits and enters
unshifted (`W - 8` is 0 on naturals); no command reaches it, the engines having 16 and 32 bits. -/
def crcByte {W : Nat} (P : CrcParams W) (s : BitVec W) (b : Byte) : BitVec W :=
  let d := if P.refin then reflect b else b
  Nat.iterate (crcShift P) 8 (s ^^^ (d.setWidth W <<< (W - 8)))

/-- `CrcUpdate(P, s, bytes)` (R142): the byte step over the bytes from index 0 upward. -/
def crcUpdate {W : Nat} (P : CrcParams W) (s : BitVec W) : List Byte → BitVec W
  | [] => s
  | b :: rest => crcUpdate P (crcByte P s b) rest

/-- `CrcFinalize(P, s)` (R143). -/
def crcFinalize {W : Nat} (P : CrcParams W) (s : BitVec W) : BitVec W :=
  (if P.refout then reflect s else s) ^^^ P.xorout

/-- `Crc(P, m)`, the checksum of a whole message (R144). -/
def crc {W : Nat} (P : CrcParams W) (m : List Byte) : BitVec W :=
  crcFinalize P (crcUpdate P (crcInit P) m)

end Sys2Proof.Machine
end

