-- ==== Sys2Proof/Syntax.lean ====
section
/-! DEFINITION. The thirteen commands (30_encoding.md R74), one constructor per row of spec/opcode_table.json. -/

namespace Sys2Proof

/-- A command with its operand bytes `OPD` (R70, R73). Any number of operand bytes is a command: a length the
command does not accept is answered BAD_LENGTH by the command itself (R78), so it belongs to the meaning
(log entry 8). -/
inductive Instr where
  | sysNop (opd : List Byte)
  | sysReset (opd : List Byte)
  | sysStatus (opd : List Byte)
  | frmEncode (opd : List Byte)
  | frmDecode (opd : List Byte)
  | c16Init (opd : List Byte)
  | c16Update (opd : List Byte)
  | c16Final (opd : List Byte)
  | c32Init (opd : List Byte)
  | c32Update (opd : List Byte)
  | c32Final (opd : List Byte)
  | rxdPush (opd : List Byte)
  | rxdFlush (opd : List Byte)
  deriving DecidableEq, Repr

/-- The operand bytes of a command. -/
def Instr.opd : Instr → List Byte
  | .sysNop opd => opd
  | .sysReset opd => opd
  | .sysStatus opd => opd
  | .frmEncode opd => opd
  | .frmDecode opd => opd
  | .c16Init opd => opd
  | .c16Update opd => opd
  | .c16Final opd => opd
  | .c32Init opd => opd
  | .c32Update opd => opd
  | .c32Final opd => opd
  | .rxdPush opd => opd
  | .rxdFlush opd => opd

end Sys2Proof
end

