-- ==== Sys2Proof/WellFormed.lean ====
section
/-! DEFINITION. Which commands can be sent as a packet. -/

namespace Sys2Proof

/-- `LEN` is "an unsigned 16-bit number, 0 to 65535" (30_encoding.md R70): a command with more operand bytes has no
packet. There is no other check on the form of a command (R71). -/
def Instr.wellFormed (i : Instr) : Bool := decide (i.opd.length ≤ 65535)

end Sys2Proof
end

