-- ==== Sys2Proof/Decode.lean ====
section
/-! DEFINITION. Command packets (30_encoding.md R70, R71, R74, R75): byte order of packet numbers, the opcode map, the
packet decoder (total on any byte string) and the encoder. -/

namespace Sys2Proof

/-! ### Byte order of numbers in packets (00_scope.md R12, 20_memory.md R55) -/

/-- `le16(v) = [v[7:0], v[15:8]]` (R12). -/
def le16 (v : BitVec 16) : List Byte := [v.extractLsb' 0 8, v.extractLsb' 8 8]

/-- `be16(v) = [v[15:8], v[7:0]]` (R12). -/
def be16 (v : BitVec 16) : List Byte := [v.extractLsb' 8 8, v.extractLsb' 0 8]

/-- `le32(v) = [v[7:0], v[15:8], v[23:16], v[31:24]]` (R12). -/
def le32 (v : BitVec 32) : List Byte :=
  [v.extractLsb' 0 8, v.extractLsb' 8 8, v.extractLsb' 16 8, v.extractLsb' 24 8]

/-- `unle16([a, b]) = a + 256 * b` (R12), as a 16-bit value: `b` is the high byte. -/
def unle16 (a b : Byte) : BitVec 16 := b ++ a

/-! ### The opcode map (R74, R75) -/

/-- One row of the opcode map: the bits of `OPC` that select, their value, and the command they select. -/
structure OpcodeRow where
  mask : Byte
  value : Byte
  build : List Byte → Instr

/-- R74. Every mask is 0xFF: "all eight bits of `OPC`: mask 0xFF" (R75). -/
def opcodeTable : List OpcodeRow :=
  [ ⟨0xFF, 0x00, .sysNop⟩, ⟨0xFF, 0x01, .sysReset⟩, ⟨0xFF, 0x02, .sysStatus⟩,
    ⟨0xFF, 0x10, .frmEncode⟩, ⟨0xFF, 0x11, .frmDecode⟩,
    ⟨0xFF, 0x20, .c16Init⟩, ⟨0xFF, 0x21, .c16Update⟩, ⟨0xFF, 0x22, .c16Final⟩,
    ⟨0xFF, 0x30, .c32Init⟩, ⟨0xFF, 0x31, .c32Update⟩, ⟨0xFF, 0x32, .c32Final⟩,
    ⟨0xFF, 0x40, .rxdPush⟩, ⟨0xFF, 0x41, .rxdFlush⟩ ]

/-- Whether `OPC` selects a row (R75). -/
def OpcodeRow.selects (r : OpcodeRow) (opc : Byte) : Bool := opc &&& r.mask == r.value

/-- The command that an opcode and its operand bytes stand for; `none` for the 243 reserved opcodes (R79). -/
def instrOf (opc : Byte) (opd : List Byte) : Option Instr :=
  (opcodeTable.find? (·.selects opc)).map (·.build opd)

/-! ### Decoding a packet -/

/-- What a byte string is, as a command packet. -/
inductive Decoded where
  /-- one well-formed packet whose opcode is in the map -/
  | command (i : Instr)
  /-- one well-formed packet whose opcode is reserved (R79) -/
  | illegalOp (opc : Byte)
  /-- not exactly one packet: "malformed packet" (R71) -/
  | malformed
  deriving DecidableEq, Repr

/-- The packet decoder. The packet's form comes first (R71), then the opcode (R78); the length is checked against
the command's accepted set only by the command's own rule. -/
def decode : List Byte → Decoded
  | opc :: lo :: hi :: opd =>
    if opd.length = (unle16 lo hi).toNat then
      match instrOf opc opd with
      | some i => .command i
      | none => .illegalOp opc
    else .malformed
  | _ => .malformed

/-! ### Encoding -/

/-- The opcode of a command (R74). -/
def Instr.opc : Instr → Byte
  | .sysNop _ => 0x00
  | .sysReset _ => 0x01
  | .sysStatus _ => 0x02
  | .frmEncode _ => 0x10
  | .frmDecode _ => 0x11
  | .c16Init _ => 0x20
  | .c16Update _ => 0x21
  | .c16Final _ => 0x22
  | .c32Init _ => 0x30
  | .c32Update _ => 0x31
  | .c32Final _ => 0x32
  | .rxdPush _ => 0x40
  | .rxdFlush _ => 0x41

/-- A command packet from its three fields (R70): `OPC`, `LEN` little-endian, `OPD`. -/
def packetBytes (opc : Byte) (opd : List Byte) : List Byte :=
  opc :: (le16 (BitVec.ofNat 16 opd.length) ++ opd)

/-- The packet of a command (R70). It is that command's packet when the command is well formed. -/
def encode (i : Instr) : List Byte := packetBytes i.opc i.opd

/-! ### Words of the opcode table (the host's check; log entry 2) -/

/-- The packet whose first bytes are the low `nbits` bits of `w`, first byte least significant, all later bits zero.
The head is completed to three bytes, and the operand to the `LEN` that the head then holds. -/
def packetOfWord (nbits w : Nat) : List Byte :=
  let given := (List.range ((nbits + 7) / 8)).map fun k => BitVec.ofNat 8 (w >>> (8 * k))
  let head := given ++ List.replicate (3 - given.length) 0
  let len := (unle16 (head.getD 1 0) (head.getD 2 0)).toNat
  head ++ List.replicate (3 + len - head.length) 0

/-- The command that the decoder reads from a table word; `none` where it reads no command. -/
def decodeTableWord (nbits w : Nat) : Option Instr :=
  match decode (packetOfWord nbits w) with
  | .command i => some i
  | .illegalOp _ => none
  | .malformed => none

end Sys2Proof
end

