-- ==== Sys2Proof/Machine/Response.lean ====
section
/-! DEFINITION. Response packets: status codes, error causes, packet layout (30_encoding.md R72, R76, R77). -/

namespace Sys2Proof.Machine

/-- The seven statuses (R76): "All other `STS` values are never produced." -/
inductive Status where
  | ok
  | pending
  | illegalOp
  | badLength
  | notInit
  | formatError
  | checksumError
  deriving DecidableEq, Repr

/-- The `STS` byte (R76). -/
def Status.code : Status → Byte
  | .ok => 0x00
  | .pending => 0x01
  | .illegalOp => 0x80
  | .badLength => 0x81
  | .notInit => 0x82
  | .formatError => 0x90
  | .checksumError => 0x91

/-- "`STS` values 0x00 to 0x7F are not errors; 0x80 to 0xFF are errors" (R76). -/
def Status.isError (st : Status) : Bool := st.code.msb

/-- The six causes of a FORMAT_ERROR (R77). -/
inductive Cause where
  | noTerminator
  | embeddedTerminator
  | badStuffing
  | tooShort
  | tooLong
  | overflow
  deriving DecidableEq, Repr

/-- The cause byte (R77). -/
def Cause.code : Cause → Byte
  | .noTerminator => 0x01
  | .embeddedTerminator => 0x02
  | .badStuffing => 0x03
  | .tooShort => 0x04
  | .tooLong => 0x05
  | .overflow => 0x06

/-- The response packet: `[STS] ++ le16(len(data)) ++ data` (R72). `RLEN` is exact below 2^16 data bytes, which the
rules never exceed (R72; log entry 12). -/
def responsePacket (st : Status) (data : List Byte) : List Byte :=
  st.code :: (le16 (BitVec.ofNat 16 data.length) ++ data)

end Sys2Proof.Machine
end

