-- ==== Sys2Proof/Machine/Params.lean ====
section
/-! DEFINITION. The defaults of the parameters (00_scope.md R6) and the constants derived from them (R7, R8). -/

namespace Sys2Proof.Machine

/-- The terminator `TERM = 0x00` (R7), fixed. -/
def terminator : Byte := 0x00

/-- Default `P16`: CRC-16/X-25 (R6; 42_crc_engines.md R147). -/
def crc16X25 : CrcParams 16 := ⟨0x1021, 0xFFFF, true, true, 0xFFFF⟩

/-- Default `P32`: CRC-32/ISO-HDLC (R6; 42_crc_engines.md R148). -/
def crc32IsoHdlc : CrcParams 32 := ⟨0x04C11DB7, 0xFFFFFFFF, true, true, 0xFFFFFFFF⟩

/-- The default build (R6): `MaxPayload = 255`, COBS, little-endian checksum bytes. -/
def defaultConfig : Config := ⟨255, crc16X25, crc32IsoHdlc, .cobs, .le⟩

/-- `RawMax = MaxPayload + 3`, the largest raw frame length (R8). -/
def rawMax (c : Config) : Nat := c.maxPayload.val + 3

/-- `RxCap = RawMax + floor(RawMax / 254) + 1`, the largest stuffed body length that can decode (R8). -/
def rxCap (c : Config) : Nat := rawMax c + rawMax c / 254 + 1

end Sys2Proof.Machine
end

