-- ==== Sys2Proof/Machine/Stuff.lean ====
section
/-! DEFINITION. Byte stuffing: COBS (41_frame_codec.md R103, R105) and its reduced variant COBS/R (R125, R126). In all
four loops `out` of the spec's pseudocode is what stands in front of the recursive call. -/

namespace Sys2Proof.Machine

/-- A code byte and its data bytes: `[len(blk) + 1] ++ blk`. -/
def codedBlock (blk : List Byte) : List Byte := BitVec.ofNat 8 (blk.length + 1) :: blk

/-- The loop of `Stuff` (R103) over the rest of the raw bytes; `blk` is the block being built. A block that reaches
254 bytes is emitted at once with code 0xFF; the final block is always emitted. -/
def stuffCobsFrom (blk : List Byte) : List Byte → List Byte
  | [] => codedBlock blk
  | b :: rest =>
    if b = terminator then codedBlock blk ++ stuffCobsFrom [] rest
    else if blk.length + 1 = 254 then codedBlock (blk ++ [b]) ++ stuffCobsFrom [] rest
    else stuffCobsFrom (blk ++ [b]) rest

/-- `Stuff(raw)` at COBS (R103). -/
def stuffCobs (raw : List Byte) : List Byte := stuffCobsFrom [] raw

/-- The loop of `Unstuff` (R105) on what is left of the body: `code` is `body[i]`, the `code - 1` data bytes must all be
there, and a zero is implied after them unless the code is 0xFF or the body ends. Each turn takes at least one byte,
so `fuel = len(body)` turns are enough. On a body with a zero byte, where the spec does not define it, a zero code is
read as the code 1; no command gets there (log entry 9). -/
def unstuffCobsFrom : Nat → List Byte → Option (List Byte)
  | _, [] => some []
  | 0, _ :: _ => none
  | fuel + 1, code :: rest =>
    let n := code.toNat - 1
    if rest.length < n then none
    else
      let implied := if code ≠ 0xFF ∧ n < rest.length then [terminator] else []
      (unstuffCobsFrom fuel (rest.drop n)).map fun out => rest.take n ++ implied ++ out

/-- `Unstuff(body)` at COBS (R105); `none` where it fails. -/
def unstuffCobs (body : List Byte) : Option (List Byte) := unstuffCobsFrom body.length body

/-- The final block of `StuffR` (R125): `z` is the last raw byte. A last byte not smaller than the code takes the
code's place and is dropped from the end. With `blk = []` (an empty `raw`, or a last byte 0) `z` is 0 and the plain
block `01` results. -/
def finalBlockCobsr (z : Byte) (blk : List Byte) : List Byte :=
  if z.toNat < blk.length + 1 then codedBlock blk else z :: blk.dropLast

/-- The loop of `StuffR` (R125); `z` is the raw byte read last (0 before the first). A block of 254 bytes is emitted
only when raw bytes follow it. -/
def stuffCobsrFrom (z : Byte) (blk : List Byte) : List Byte → List Byte
  | [] => finalBlockCobsr z blk
  | b :: rest =>
    if b = terminator then codedBlock blk ++ stuffCobsrFrom b [] rest
    else if blk.length + 1 = 254 ∧ rest ≠ [] then codedBlock (blk ++ [b]) ++ stuffCobsrFrom b [] rest
    else stuffCobsrFrom b (blk ++ [b]) rest

/-- `StuffR(raw)` at COBS/R (R125). -/
def stuffCobsr (raw : List Byte) : List Byte := stuffCobsrFrom terminator [] raw

/-- The loop of `UnstuffR` (R126): with fewer bytes left than the code announces, the code byte was also the final
data byte. It never fails. -/
def unstuffCobsrFrom : Nat → List Byte → List Byte
  | _, [] => []
  | 0, _ :: _ => []
  | fuel + 1, code :: rest =>
    let n := code.toNat - 1
    if n < rest.length then
      let implied := if code ≠ 0xFF then [terminator] else []
      rest.take n ++ implied ++ unstuffCobsrFrom fuel (rest.drop n)
    else if n > rest.length then rest ++ [code] else rest

/-- `UnstuffR(body)` at COBS/R (R126). -/
def unstuffCobsr (body : List Byte) : List Byte := unstuffCobsrFrom body.length body

/-- `Stuff`, the instance selected by `StuffAlg` (R101). -/
def stuff : StuffAlg → List Byte → List Byte
  | .cobs, raw => stuffCobs raw
  | .cobsr, raw => stuffCobsr raw

/-- `Unstuff`, the instance selected by `StuffAlg` (R110, R128); `none` where it fails. -/
def unstuff : StuffAlg → List Byte → Option (List Byte)
  | .cobs, body => unstuffCobs body
  | .cobsr, body => some (unstuffCobsr body)

end Sys2Proof.Machine
end

