-- ==== Sys2Proof/Machine/Frame.lean ====
section
/-! DEFINITION. The pure frame codec: the raw frame (41_frame_codec.md R100), `EncodeFrame` (R101) and `DecodeFrame`
(R110). It reads the parameters and its argument, nothing of the state (R115). -/

namespace Sys2Proof.Machine

/-- `cks_bytes(v)` (00_scope.md R12): the two checksum bytes in the order the block is built with. -/
def cksBytes (o : CksumOrder) (v : BitVec 16) : List Byte :=
  match o with
  | .le => le16 v
  | .be => be16 v

/-- `cks_value`, the inverse of `cks_bytes` (R12). -/
def cksValue (o : CksumOrder) (k0 k1 : Byte) : BitVec 16 :=
  match o with
  | .le => unle16 k0 k1
  | .be => unle16 k1 k0

/-- A decoded frame (R110). -/
structure Frame where
  id : Byte
  payload : List Byte
  checksum : BitVec 16
  deriving DecidableEq, Repr

/-- The three outcomes of `DecodeFrame` (R110). -/
inductive DecodeResult where
  | frame (f : Frame)
  | formatError (cause : Cause)
  | checksumError (received computed : BitVec 16)
  deriving DecidableEq, Repr

/-- The frame checksum covers `id` and `payload` only (R100; 42_crc_engines.md R147). -/
def frameChecksum (c : Config) (id : Byte) (payload : List Byte) : BitVec 16 := crc c.p16 (id :: payload)

/-- `raw = cks_bytes(checksum) ++ [id] ++ payload` (R100). -/
def rawFrame (c : Config) (f : Frame) : List Byte := cksBytes c.cksumOrder f.checksum ++ f.id :: f.payload

/-- `EncodeFrame(id, payload) = Stuff(raw) ++ [TERM]` (R101). The spec defines it for `len(payload) <= MaxPayload`;
FRM.ENCODE never asks for more (R80; log entry 10). -/
def encodeFrame (c : Config) (id : Byte) (payload : List Byte) : List Byte :=
  stuff c.stuffAlg (rawFrame c ⟨id, payload, frameChecksum c id payload⟩) ++ [terminator]

/-- The checks on an unstuffed frame, in order (R110, R111): TOO_SHORT, TOO_LONG, then the checksum. -/
def checkRaw (c : Config) : List Byte → DecodeResult
  | k0 :: k1 :: id :: payload =>
    if payload.length + 3 > rawMax c then .formatError .tooLong
    else
      let received := cksValue c.cksumOrder k0 k1
      let computed := frameChecksum c id payload
      if received ≠ computed then .checksumError received computed
      else .frame ⟨id, payload, received⟩
  | _ => .formatError .tooShort

/-- `DecodeFrame(s)` (R110): the first failing check decides (R111). -/
def decodeFrame (c : Config) (s : List Byte) : DecodeResult :=
  if s.getLast? ≠ some terminator then .formatError .noTerminator
  else if terminator ∈ s.dropLast then .formatError .embeddedTerminator
  else
    match unstuff c.stuffAlg s.dropLast with
    | none => .formatError .badStuffing
    | some raw => checkRaw c raw

end Sys2Proof.Machine
end

