-- ==== Sys2Proof/Machine/Operands.lean ====
section
/-! DEFINITION. The operand forms (30_encoding.md R73, R74): none, one byte, a byte sequence used as is, an id with its
payload. A form answers `none` when `LEN` is not one the command accepts (BAD_LENGTH, R78). -/

namespace Sys2Proof.Machine

/-- No operand: `LEN = 0`. -/
def noOperand (opd : List Byte) : Bool := decide (opd.length = 0)

/-- One byte `b = OPD[0]`: `LEN = 1` (RXD.PUSH, 43_stream_delimiter.md R181). -/
def oneByte : List Byte → Option Byte
  | [b] => some b
  | _ => none

/-- `id = OPD[0]`, `payload = OPD[1 .. LEN]`: `1 <= LEN <= MaxPayload + 1` (FRM.ENCODE, 41_frame_codec.md R120). -/
def idAndPayload (c : Config) : List Byte → Option (Byte × List Byte)
  | [] => none
  | id :: payload => if payload.length ≤ c.maxPayload.val then some (id, payload) else none

end Sys2Proof.Machine
end

