-- ==== Sys2Proof/Machine/State.lean ====
section
/-! DEFINITION. The state of the block (10_state.md R20), the reasons a step can stop, and the state after reset. -/

namespace Sys2Proof.Machine

/-- The seven architectural elements of R20 and, beside them, the four fields of the model's own that the spec does
not count as state of the block (00_scope.md R16). INVENTORY.md lists each with its rule and reset value. -/
structure State where
  /-- the build parameters (R6, R262), fixed for a run; not state of the block (R16; log entry 1) -/
  cfg : Config
  /-- `C16_VALID` (R24) -/
  c16Valid : Bool
  /-- `C16_STATE` (R26), canonical form -/
  c16State : BitVec 16
  /-- `C32_VALID` (R24) -/
  c32Valid : Bool
  /-- `C32_STATE` (R26), canonical form -/
  c32State : BitVec 32
  /-- `RXD_BUF[0 .. RXD_LEN]` in arrival order; its length is `RXD_LEN` (R31; log entry 5) -/
  rxdBuf : List Byte
  /-- `RXD_OVF` (R25) -/
  rxdOvf : Bool
  /-- how many free values have been drawn (log entry 4) -/
  freeCount : Nat
  /-- command packets the host has issued and the block has not executed, first to run first (log entry 2) -/
  input : List (List Byte)
  /-- response packets produced so far, oldest first (log entry 2) -/
  output : List (List Byte)
  deriving DecidableEq, Repr

/-- Why the machine stops with a fault. -/
inductive Fault where
  /-- Raised by `step` when the host has issued no command: "with no command it has no step" (00_scope.md R15).
  Safe: the block does nothing there either (log entry 6). -/
  | noCommand
  deriving DecidableEq, Repr

/-- Why the machine gives no meaning. -/
inductive Refusal where
  /-- Raised by `exec` for a command that has no meaning in this model; no arm raises it. Safe. -/
  | notModelled (mnemonic : String)
  /-- Raised by `step` for a byte string that is not exactly one command packet: the spec's own refusal
  (30_encoding.md R71, "malformed packet"). Safe: the spec gives it no step (log entry 6). -/
  | malformedPacket
  deriving DecidableEq, Repr

/-- The state of R260 for a block built with parameters `c`, no command issued. The spec leaves `C16_STATE` and
`C32_STATE` unspecified there; DESIGN CHOICE: zero (log entry 3). DESIGN CHOICE: `freeCount` is 0 (log entry 4). -/
def State.resetWith (c : Config) : State where
  cfg := c
  c16Valid := false
  c16State := 0
  c32Valid := false
  c32State := 0
  rxdBuf := []
  rxdOvf := false
  freeCount := 0
  input := []
  output := []

/-- The machine right after reset (R260), built with the defaults of R6 (log entry 1). -/
def State.reset : State := State.resetWith defaultConfig

end Sys2Proof.Machine
end

