-- ==== Sys2Proof/Machine/Ops.lean ====
section
/-! DEFINITION. The named operations on the state: the writes of each element, taking the next command, and
answering. An error is a response like any other (60_exceptions.md R222): there is no exception entry and no return. -/

namespace Sys2Proof.Machine

/-! ### Writes of the elements -/

/-- Append a response packet to what the host reads (30_encoding.md R72). -/
def State.emit (s : State) (packet : List Byte) : State := { s with output := s.output ++ [packet] }

/-- `C16_STATE <- v; C16_VALID <- 1` (42_crc_engines.md R160). -/
def State.initC16 (s : State) (v : BitVec 16) : State := { s with c16State := v, c16Valid := true }

/-- `C16_STATE <- v` (R161). -/
def State.setC16 (s : State) (v : BitVec 16) : State := { s with c16State := v }

/-- `C32_STATE <- v; C32_VALID <- 1` (R163). -/
def State.initC32 (s : State) (v : BitVec 32) : State := { s with c32State := v, c32Valid := true }

/-- `C32_STATE <- v` (R164). -/
def State.setC32 (s : State) (v : BitVec 32) : State := { s with c32State := v }

/-- `RXD_BUF[RXD_LEN] <- b; RXD_LEN <- RXD_LEN + 1` (43_stream_delimiter.md R181). -/
def State.storeByte (s : State) (b : Byte) : State := { s with rxdBuf := s.rxdBuf ++ [b] }

/-- `RXD_OVF <- 1` (R181). -/
def State.setOverflow (s : State) : State := { s with rxdOvf := true }

/-- `RXD_LEN <- 0; RXD_OVF <- 0` (R181, R182). -/
def State.clearChunk (s : State) : State := { s with rxdBuf := [], rxdOvf := false }

/-- Every architectural element at its reset value (44_system.md R201, 70_reset_and_hazards.md R260). The two
running registers "become unspecified": free values (log entry 4). The parameters stay (R262). -/
def State.resetUnits (s : State) : State :=
  { s with
    c16Valid := false
    c16State := Config.unspecified16 s.freeCount
    c32Valid := false
    c32State := Config.unspecified32 s.freeCount
    rxdBuf := []
    rxdOvf := false
    freeCount := s.freeCount + 1 }

/-! ### Commands in, responses out -/

/-- The next command packet and the state in which it executes (00_scope.md R15, 20_memory.md R57). -/
def takeCommand (s : State) : Option (List Byte × State) :=
  match s.input with
  | [] => none
  | packet :: rest => some (packet, { s with input := rest })

/-- `respond(STS, data)` (00_scope.md R13): the command ends with this response. -/
def respond (st : Status) (data : List Byte) (s : State) : Host.Outcome State Fault Refusal :=
  .next (s.emit (responsePacket st data))

/-- `respond(BAD_LENGTH, [])`, no state changed (30_encoding.md R78, 60_exceptions.md R223). -/
def badLength (s : State) : Host.Outcome State Fault Refusal := respond .badLength [] s

/-- `respond(NOT_INIT, [])`, no state changed (R223). -/
def notInit (s : State) : Host.Outcome State Fault Refusal := respond .notInit [] s

/-- A reserved opcode: `respond(ILLEGAL_OP, [])`, no state changed, "whatever `LEN` and `OPD` are" (R78, R79). -/
def illegalOp (s : State) : Host.Outcome State Fault Refusal := respond .illegalOp [] s

end Sys2Proof.Machine
end

