-- ==== Sys2Proof/Machine/Codec.lean ====
section
/-! DEFINITION. The frame codec's commands FRM.ENCODE and FRM.DECODE (41_frame_codec.md R120, R121), and the answer to a
decode that FRM.DECODE and RXD.PUSH share. -/

namespace Sys2Proof.Machine

/-- The response to a decode (R121; 43_stream_delimiter.md R181): the raw frame, the cause, or the two checksums. -/
def respondDecode (r : DecodeResult) (s : State) : Host.Outcome State Fault Refusal :=
  match r with
  | .frame f => respond .ok (rawFrame s.cfg f) s
  | .formatError cause => respond .formatError [cause.code] s
  | .checksumError received computed => respond .checksumError (le16 received ++ le16 computed) s

/-- FRM.ENCODE (R120). -/
def execFrmEncode (opd : List Byte) (s : State) : Host.Outcome State Fault Refusal :=
  match idAndPayload s.cfg opd with
  | some (id, payload) => respond .ok (encodeFrame s.cfg id payload) s
  | none => badLength s

/-- FRM.DECODE (R121): any `LEN` is accepted. -/
def execFrmDecode (opd : List Byte) (s : State) : Host.Outcome State Fault Refusal :=
  respondDecode (decodeFrame s.cfg opd) s

end Sys2Proof.Machine
end

