-- ==== Sys2Proof/Machine/Flags.lean ====
section
/-! DEFINITION. The three flags (10_state.md R23) and the values computed from the delimiter's state: what SYS.STATUS
shows (44_system.md R202) and the test that decides RXD_OVF (R25). -/

namespace Sys2Proof.Machine

/-- `RXD_LEN`, 16 bits (10_state.md R20): the number of meaningful bytes of the chunk (R31). -/
def State.rxdLen (s : State) : BitVec 16 := BitVec.ofNat 16 s.rxdBuf.length

/-- Whether a received byte still fits: `RXD_LEN < RxCap` (43_stream_delimiter.md R181). Where it does not, the byte
is dropped and `RXD_OVF` is set (R25). -/
def State.chunkHasRoom (s : State) : Bool := decide (s.rxdBuf.length < rxCap s.cfg)

/-- `flags <- C16_VALID + 2 * C32_VALID + 4 * RXD_OVF`, bits 7:3 are 0 (R202). -/
def statusFlags (s : State) : Byte :=
  BitVec.ofNat 8 (s.c16Valid.toNat + 2 * s.c32Valid.toNat + 4 * s.rxdOvf.toNat)

end Sys2Proof.Machine
end

