-- ==== Sys2Proof/Machine/Delimiter.lean ====
section
/-! DEFINITION. The stream delimiter's commands RXD.PUSH and RXD.FLUSH (43_stream_delimiter.md R181, R182). -/

namespace Sys2Proof.Machine

/-- A received byte that is not the terminator (R181): stored while there is room, else dropped with `RXD_OVF` set. -/
def pushData (b : Byte) (s : State) : Host.Outcome State Fault Refusal :=
  respond .pending [] (if s.chunkHasRoom then s.storeByte b else s.setOverflow)

/-- A received terminator (R181): the chunk is cleared "always, whatever the result"; an overflowed chunk answers
OVERFLOW, any other is decoded with its terminator. -/
def pushTerminator (s : State) : Host.Outcome State Fault Refusal :=
  if s.rxdOvf then respond .formatError [Cause.overflow.code] s.clearChunk
  else respondDecode (decodeFrame s.cfg (s.rxdBuf ++ [terminator])) s.clearChunk

/-- RXD.PUSH (R181). -/
def execRxdPush (opd : List Byte) (s : State) : Host.Outcome State Fault Refusal :=
  match oneByte opd with
  | some b => if b ≠ terminator then pushData b s else pushTerminator s
  | none => badLength s

/-- RXD.FLUSH (R182): the chunk is discarded without decoding. -/
def execRxdFlush (opd : List Byte) (s : State) : Host.Outcome State Fault Refusal :=
  if noOperand opd then respond .ok [] s.clearChunk else badLength s

end Sys2Proof.Machine
end

