-- ==== Sys2Proof/Machine/Engines.lean ====
section
/-! DEFINITION. The checksum engines' commands (42_crc_engines.md R160 to R165). -/

namespace Sys2Proof.Machine

/-- C16.INIT (R160): legal in any state. -/
def execC16Init (opd : List Byte) (s : State) : Host.Outcome State Fault Refusal :=
  if noOperand opd then respond .ok [] (s.initC16 (crcInit s.cfg.p16)) else badLength s

/-- C16.UPDATE (R161): any `LEN`, 0 included. -/
def execC16Update (opd : List Byte) (s : State) : Host.Outcome State Fault Refusal :=
  if s.c16Valid then respond .ok [] (s.setC16 (crcUpdate s.cfg.p16 s.c16State opd)) else notInit s

/-- C16.FINAL (R162): BAD_LENGTH before NOT_INIT; changes no element. -/
def execC16Final (opd : List Byte) (s : State) : Host.Outcome State Fault Refusal :=
  if noOperand opd then
    if s.c16Valid then respond .ok (le16 (crcFinalize s.cfg.p16 s.c16State)) s else notInit s
  else badLength s

/-- C32.INIT (R163). -/
def execC32Init (opd : List Byte) (s : State) : Host.Outcome State Fault Refusal :=
  if noOperand opd then respond .ok [] (s.initC32 (crcInit s.cfg.p32)) else badLength s

/-- C32.UPDATE (R164). -/
def execC32Update (opd : List Byte) (s : State) : Host.Outcome State Fault Refusal :=
  if s.c32Valid then respond .ok [] (s.setC32 (crcUpdate s.cfg.p32 s.c32State opd)) else notInit s

/-- C32.FINAL (R165): all 32 bits (R151). -/
def execC32Final (opd : List Byte) (s : State) : Host.Outcome State Fault Refusal :=
  if noOperand opd then
    if s.c32Valid then respond .ok (le32 (crcFinalize s.cfg.p32 s.c32State)) s else notInit s
  else badLength s

end Sys2Proof.Machine
end

