-- ==== Sys2Proof/Machine/System.lean ====
section
/-! DEFINITION. The system commands SYS.NOP, SYS.RESET, SYS.STATUS (44_system.md R200 to R202). -/

namespace Sys2Proof.Machine

/-- SYS.NOP (R200). -/
def execSysNop (opd : List Byte) (s : State) : Host.Outcome State Fault Refusal :=
  if noOperand opd then respond .ok [] s else badLength s

/-- SYS.RESET (R201). -/
def execSysReset (opd : List Byte) (s : State) : Host.Outcome State Fault Refusal :=
  if noOperand opd then respond .ok [] s.resetUnits else badLength s

/-- SYS.STATUS (R202): the flags byte, then `le16(RXD_LEN)`. -/
def execSysStatus (opd : List Byte) (s : State) : Host.Outcome State Fault Refusal :=
  if noOperand opd then respond .ok (statusFlags s :: le16 s.rxdLen) s else badLength s

end Sys2Proof.Machine
end

