-- ==== Sys2Proof/Machine/Dispatch.lean ====
section
/-! DEFINITION. One arm per command, each a direct call of its meaning. -/

namespace Sys2Proof.Machine

def exec (i : Instr) (s : State) : Host.Outcome State Fault Refusal :=
  match i with
  | .sysNop opd => Sys2Proof.Machine.execSysNop opd s
  | .sysReset opd => Sys2Proof.Machine.execSysReset opd s
  | .sysStatus opd => Sys2Proof.Machine.execSysStatus opd s
  | .frmEncode opd => Sys2Proof.Machine.execFrmEncode opd s
  | .frmDecode opd => Sys2Proof.Machine.execFrmDecode opd s
  | .c16Init opd => Sys2Proof.Machine.execC16Init opd s
  | .c16Update opd => Sys2Proof.Machine.execC16Update opd s
  | .c16Final opd => Sys2Proof.Machine.execC16Final opd s
  | .c32Init opd => Sys2Proof.Machine.execC32Init opd s
  | .c32Update opd => Sys2Proof.Machine.execC32Update opd s
  | .c32Final opd => Sys2Proof.Machine.execC32Final opd s
  | .rxdPush opd => Sys2Proof.Machine.execRxdPush opd s
  | .rxdFlush opd => Sys2Proof.Machine.execRxdFlush opd s

end Sys2Proof.Machine
end

