-- ==== Sys2Proof/Machine/Step.lean ====
section
/-! DEFINITION. One step: take the next command packet, decode it, execute it (00_scope.md R15, 30_encoding.md R78). -/

namespace Sys2Proof.Machine

/-- One step of the block. It is total on well-formed packets (60_exceptions.md R225); only a byte string that is not a
packet, or no packet at all, has no step (R71, R15). -/
def step (s : State) : Host.Outcome State Fault Refusal :=
  match takeCommand s with
  | none => .fault .noCommand
  | some (packet, s') =>
    match decode packet with
    | .command i => exec i s'
    | .illegalOp _ => illegalOp s'
    | .malformed => .refused .malformedPacket

/-- `s` with the packet of a table word as the host's next command (log entry 2): the block takes its commands from
`input`, so this is all that running it takes. -/
def State.withFetchWord (s : State) (nbits w : Nat) : State :=
  { s with input := packetOfWord nbits w :: s.input }

end Sys2Proof.Machine
end

