-- ==== Sys2Proof/Safety.lean ====
section
/-! DEFINITION. The terms claims use: the invariant, equality up to what cannot be observed, runs of several commands,
the tables of 30_encoding.md R74 and 60_exceptions.md R220, and the spec's second descriptions (reflected CRC, unbounded
delimiter, cutting a stream at terminators) that the machine is compared with. -/

namespace Sys2Proof.Machine

/-! ### States -/

/-- "Invariants that every reachable state satisfies" (10_state.md R30). -/
abbrev State.Inv (s : State) : Prop :=
  s.rxdBuf.length ≤ rxCap s.cfg ∧ terminator ∉ s.rxdBuf ∧ (s.rxdOvf = true → s.rxdBuf.length = rxCap s.cfg)

/-- The two states are built with the same parameters and agree on every architectural element, except on a running
register that is unspecified in both because its valid bit is 0 (R27; log entries 3 and 4). -/
abbrev State.SameUnits (s t : State) : Prop :=
  s.cfg = t.cfg ∧ s.c16Valid = t.c16Valid ∧ (s.c16Valid = true → s.c16State = t.c16State) ∧
    s.c32Valid = t.c32Valid ∧ (s.c32Valid = true → s.c32State = t.c32State) ∧
    s.rxdBuf = t.rxdBuf ∧ s.rxdOvf = t.rxdOvf

/-- The same units, the same commands waiting, the same responses given. -/
abbrev State.SameSeen (s t : State) : Prop := s.SameUnits t ∧ s.input = t.input ∧ s.output = t.output

/-! ### Runs of several commands -/

/-- Commands one after the other, the next observing all effects of the one before (20_memory.md R57). -/
def execAll : List Instr → State → Host.Outcome State Fault Refusal
  | [], s => .next s
  | i :: rest, s =>
    match exec i s with
    | .next s' => execAll rest s'
    | .fault r => .fault r
    | .refused r => .refused r

/-- `RXD.FEED b0 b1 ...`: one RXD.PUSH for each byte, no stop at an error status (30_encoding.md R82). -/
def feed (bytes : List Byte) (s : State) : Host.Outcome State Fault Refusal :=
  execAll (bytes.map fun b => .rxdPush [b]) s

/-! ### Tables of the spec -/

/-- The column "LEN accepted" of R74. -/
def lenAccepted (c : Config) : Instr → Bool
  | .sysNop opd => decide (opd.length = 0)
  | .sysReset opd => decide (opd.length = 0)
  | .sysStatus opd => decide (opd.length = 0)
  | .frmEncode opd => decide (1 ≤ opd.length ∧ opd.length ≤ c.maxPayload.val + 1)
  | .frmDecode _ => true
  | .c16Init opd => decide (opd.length = 0)
  | .c16Update _ => true
  | .c16Final opd => decide (opd.length = 0)
  | .c32Init opd => decide (opd.length = 0)
  | .c32Update _ => true
  | .c32Final opd => decide (opd.length = 0)
  | .rxdPush opd => decide (opd.length = 1)
  | .rxdFlush opd => decide (opd.length = 0)

/-- The 243 reserved values of `OPC`: "0x03 to 0x0F, 0x12 to 0x1F, 0x23 to 0x2F, 0x33 to 0x3F, 0x42 to 0xFF" (R79). -/
def reservedOpcode (opc : Byte) : Bool :=
  decide ((0x03 ≤ opc.toNat ∧ opc.toNat ≤ 0x0F) ∨ (0x12 ≤ opc.toNat ∧ opc.toNat ≤ 0x1F) ∨
    (0x23 ≤ opc.toNat ∧ opc.toNat ≤ 0x2F) ∨ (0x33 ≤ opc.toNat ∧ opc.toNat ≤ 0x3F) ∨
    (0x42 ≤ opc.toNat ∧ opc.toNat ≤ 0xFF))

/-- The error statuses that each command can answer with (R220, column "Produced by"). -/
def errorStatusesOf : Instr → List Status
  | .sysNop _ => [.badLength]
  | .sysReset _ => [.badLength]
  | .sysStatus _ => [.badLength]
  | .frmEncode _ => [.badLength]
  | .frmDecode _ => [.formatError, .checksumError]
  | .c16Init _ => [.badLength]
  | .c16Update _ => [.notInit]
  | .c16Final _ => [.badLength, .notInit]
  | .c32Init _ => [.badLength]
  | .c32Update _ => [.notInit]
  | .c32Final _ => [.badLength, .notInit]
  | .rxdPush _ => [.badLength, .formatError, .checksumError]
  | .rxdFlush _ => [.badLength]

/-- The data that an error status carries (R220, column "Response data"). -/
def errorData : Status → List Byte → Prop
  | .ok, _ => False
  | .pending, _ => False
  | .illegalOp, data => data = []
  | .badLength, data => data = []
  | .notInit, data => data = []
  | .formatError, data => ∃ cause : Cause, data = [cause.code]
  | .checksumError, data => ∃ received computed : BitVec 16, received ≠ computed ∧ data = le16 received ++ le16 computed

/-! ### The engines' second description -/

/-- `ByteR(t, b)` (42_crc_engines.md R146): the byte step on the bit-reflected register. -/
def byteR {W : Nat} (rpoly t : BitVec W) (b : Byte) : BitVec W :=
  Nat.iterate (fun u : BitVec W => if u.getLsbD 0 then (u >>> 1) ^^^ rpoly else u >>> 1) 8 (t ^^^ b.setWidth W)

/-- The message bytes a command adds to C16's message: the operand of C16.UPDATE, nothing for any other. -/
def c16MessageBytes : Instr → List Byte
  | .c16Update opd => opd
  | _ => []

/-- The message bytes a command adds to C32's message. -/
def c32MessageBytes : Instr → List Byte
  | .c32Update opd => opd
  | _ => []

/-! ### The delimiter's second description -/

/-- What the unbounded delimiter of 43_stream_delimiter.md R183 answers to one pushed byte, with the length of the chunk
at that moment. -/
structure UnboundedAnswer where
  status : Status
  data : List Byte
  chunkLength : Nat
  deriving DecidableEq, Repr

/-- The answers of "rule R181 with `RxCap` infinite" (R183) to the pushed bytes, one for each; `chunk` is the bytes since
the last terminator. -/
def unboundedFeed (c : Config) (chunk : List Byte) : List Byte → List UnboundedAnswer
  | [] => []
  | b :: rest =>
    if b ≠ terminator then ⟨.pending, [], chunk.length⟩ :: unboundedFeed c (chunk ++ [b]) rest
    else
      (match decodeFrame c (chunk ++ [terminator]) with
        | .frame f => ⟨.ok, rawFrame c f, chunk.length⟩
        | .formatError cause => ⟨.formatError, [cause.code], chunk.length⟩
        | .checksumError received computed =>
          ⟨.checksumError, le16 received ++ le16 computed, chunk.length⟩) :: unboundedFeed c [] rest

/-- The encoded stream of a message `(id, payload)`. -/
def encodeMessage (c : Config) (m : Byte × List Byte) : List Byte := encodeFrame c m.1 m.2

/-- The raw frame of a message with its own checksum (41_frame_codec.md R100). -/
def rawMessage (c : Config) (m : Byte × List Byte) : List Byte :=
  rawFrame c ⟨m.1, m.2, frameChecksum c m.1 m.2⟩

/-- The responses to pushing the encoded stream of a message when the chunk is empty: PENDING for every byte before the
terminator, then OK with the raw frame (R184). -/
def messageResponses (c : Config) (m : Byte × List Byte) : List (List Byte) :=
  List.replicate ((encodeMessage c m).length - 1) (responsePacket .pending []) ++
    [responsePacket .ok (rawMessage c m)]

/-- A byte stream "cut after every `TERM`" (41_frame_codec.md R116); `piece` is the piece being built, and bytes after
the last `TERM` make no piece. -/
def cutAtTerminators (piece : List Byte) : List Byte → List (List Byte)
  | [] => []
  | b :: rest =>
    if b = terminator then (piece ++ [b]) :: cutAtTerminators [] rest else cutAtTerminators (piece ++ [b]) rest

end Sys2Proof.Machine
end

