-- ==== Sys2Proof/Certificates/Slice0/Obligations.lean ====
section
/-! DEFINITION. The statements for the provers. Every statement quantifies over the build parameters (they are the field
`cfg` of the state, or an argument), so none rests on the defaults of 00_scope.md R6, and none rests on the reset values
that log entries 3 and 4 chose. -/

open Sys2Proof Sys2Proof.Machine

/-! ### Packets -/

/-- Packets written out from 30_encoding.md R70 and R74 (R81 and 95_test_vectors.md section 5 list most of them). -/
def Obligations.DecodesWrittenPackets : Prop :=
  decode [0x00, 0x00, 0x00] = .command (.sysNop []) ∧
  decode [0x01, 0x01, 0x00, 0x00] = .command (.sysReset [0x00]) ∧
  decode [0x10, 0x05, 0x00, 0x2A, 0x11, 0x22, 0x00, 0x33] = .command (.frmEncode [0x2A, 0x11, 0x22, 0x00, 0x33]) ∧
  decode [0x11, 0x00, 0x00] = .command (.frmDecode []) ∧
  decode [0x21, 0x02, 0x00, 0x32, 0x33] = .command (.c16Update [0x32, 0x33]) ∧
  decode [0x32, 0x00, 0x00] = .command (.c32Final []) ∧
  decode [0x40, 0x01, 0x00, 0x04] = .command (.rxdPush [0x04]) ∧
  decode [0x23, 0x01, 0x00, 0x55] = .illegalOp 0x23 ∧
  decode [0x21, 0x02, 0x00, 0x31] = .malformed ∧
  decode [0x22, 0x00, 0x00, 0x55] = .malformed

/-- R70, R71, R74: the packet of a command with at most 65535 operand bytes is `3 + LEN` bytes long and decodes to that
command, every operand byte kept. -/
def Obligations.DecodeOfEncodeIsTheCommand : Prop :=
  ∀ i : Instr, i.wellFormed = true →
    (encode i).length = 3 + i.opd.length ∧ decode (encode i) = .command i

/-- R70, R71, R75: a byte string that decodes to a command is that command's one packet, and the command is well formed;
so no two byte strings are the same command. -/
def Obligations.EachCommandHasOnePacket : Prop :=
  ∀ (p : List Byte) (i : Instr), decode p = .command i → encode i = p ∧ i.wellFormed = true

/-- R71: the block refuses exactly the byte strings that are not one packet of `3 + LEN` bytes, `LEN` from bytes 1 and 2. -/
def Obligations.OnlyWholePacketsAreCommands : Prop :=
  ∀ (s : State) (p : List Byte) (rest : List (List Byte)), s.input = p :: rest →
    (step s = .refused .malformedPacket ↔
      ¬ (3 ≤ p.length ∧ p.length = 3 + ((p.getD 1 0).toNat + 256 * (p.getD 2 0).toNat)))

/-- R78: opcode first, whatever `LEN` and `OPD` are; then the length; only then the command's own rule, which then does
not answer BAD_LENGTH. -/
def Obligations.OpcodeThenLengthThenRule : Prop :=
  ∀ (s : State) (opc : Byte) (opd : List Byte) (rest : List (List Byte)), opd.length ≤ 65535 →
    s.input = packetBytes opc opd :: rest →
    (reservedOpcode opc = true → step s = .next ({ s with input := rest }.emit [0x80, 0x00, 0x00])) ∧
    (reservedOpcode opc = false → ∃ i : Instr, i.opc = opc ∧ i.opd = opd ∧
      (lenAccepted s.cfg i = false → step s = .next ({ s with input := rest }.emit [0x81, 0x00, 0x00])) ∧
      (lenAccepted s.cfg i = true → step s = exec i { s with input := rest } ∧
        ∀ t, step s = .next t → t.output ≠ s.output ++ [[0x81, 0x00, 0x00]]))

/-- R79: a packet is answered ILLEGAL_OP exactly when its opcode is one of the listed ranges of reserved values. -/
def Obligations.IllegalOpExactlyForReservedOpcodes : Prop :=
  ∀ (s : State) (opc : Byte) (opd : List Byte) (rest : List (List Byte)), opd.length ≤ 65535 →
    s.input = packetBytes opc opd :: rest →
    ((∃ t, step s = .next t ∧ t.output = s.output ++ [[0x80, 0x00, 0x00]]) ↔ reservedOpcode opc = true)

/-! ### The step -/

/-- R15, R57: when the packet at the head of the input decodes to a command, the step is that command executed on the
state with the packet taken. The model's choice: commands wait in the field `input` (log entry 2). -/
def Obligations.StepRunsTheDecodedCommand : Prop :=
  ∀ (s : State) (p : List Byte) (rest : List (List Byte)) (i : Instr), s.input = p :: rest →
    decode p = .command i → step s = exec i { s with input := rest }

/-- R15, R71, R225: a step stops only where the spec gives no step: no command issued, or a byte string that is no
packet. The model's choice: the two stops are a fault and a refusal, each under its name (log entry 6). -/
def Obligations.StepStopsOnlyWithoutAPacket : Prop :=
  (∀ (s : State) (f : Fault), step s = .fault f ↔ f = .noCommand ∧ s.input = []) ∧
  (∀ (s : State) (r : Refusal), step s = .refused r ↔
    r = .malformedPacket ∧ ∃ p rest, s.input = p :: rest ∧ decode p = .malformed)

/-- R72: every well-formed packet, reserved opcodes included, is answered by exactly one response of `3 + RLEN` bytes,
whose `STS` is one of the seven codes and whose data length fits `RLEN`. -/
def Obligations.EveryPacketGetsOneResponse : Prop :=
  ∀ (s : State) (p : List Byte) (rest : List (List Byte)), s.input = p :: rest → decode p ≠ .malformed →
    ∃ (t : State) (sts : Byte) (data : List Byte), step s = .next t ∧ t.input = rest ∧
      sts ∈ ([0x00, 0x01, 0x80, 0x81, 0x82, 0x90, 0x91] : List Byte) ∧ data.length < 65536 ∧
      t.output = s.output ++
        [sts :: BitVec.ofNat 8 (data.length % 256) :: BitVec.ofNat 8 (data.length / 256) :: data]

/-- R220: an error answer of a command is one that the table lists for it, with the data the table gives. -/
def Obligations.ErrorsAreThoseOfTheTable : Prop :=
  ∀ (i : Instr) (s t : State), exec i s = .next t →
    ∃ (st : Status) (data : List Byte), t.output = s.output ++ [responsePacket st data] ∧
      (st.isError = true → st ∈ errorStatusesOf i ∧ errorData st data)

/-- R30: every step keeps the invariants of the delimiter's state. -/
def Obligations.StepKeepsTheDelimiterInvariant : Prop :=
  ∀ s t : State, s.Inv → step s = .next t → t.Inv

/-- R30: the invariants hold at reset, for every build. -/
def Obligations.ResetMeetsTheDelimiterInvariant : Prop :=
  State.reset.Inv ∧ ∀ c : Config, (State.resetWith c).Inv

/-- R27, R260: an unspecified running register cannot be observed. Two states that differ only in a register whose valid
bit is 0 (and in the model's own counter of free values) step to states that differ only so; their responses are the
same. -/
def Obligations.UnspecifiedRegistersCannotBeObserved : Prop :=
  ∀ s t s' : State, s.SameSeen t → step s = .next s' → ∃ t', step t = .next t' ∧ s'.SameSeen t'

/-! ### Who writes what -/

/-- R24, for both valid bits: set by INIT, cleared by SYS.RESET and reset, changed by nothing else. -/
def Obligations.ValidBitsChangeOnlyByInitAndReset : Prop :=
  (∀ (i : Instr) (s t : State), exec i s = .next t →
    t.c16Valid = (if i = .c16Init [] then true else if i = .sysReset [] then false else s.c16Valid) ∧
    t.c32Valid = (if i = .c32Init [] then true else if i = .sysReset [] then false else s.c32Valid)) ∧
  (∀ c : Config, (State.resetWith c).c16Valid = false ∧ (State.resetWith c).c32Valid = false)

/-- R25: what sets and what clears `RXD_OVF`, in every state whose chunk fits the buffer. -/
def Obligations.OverflowBitChangesOnlyAsListed : Prop :=
  (∀ (i : Instr) (s t : State), s.rxdBuf.length ≤ rxCap s.cfg → exec i s = .next t →
    t.rxdOvf = (match i with
      | .rxdPush [b] =>
        if b = terminator then false else if s.rxdBuf.length = rxCap s.cfg then true else s.rxdOvf
      | .rxdFlush [] => false
      | .sysReset [] => false
      | _ => s.rxdOvf)) ∧
  (∀ c : Config, (State.resetWith c).rxdOvf = false)

/-- R28: no command of C16 writes an element of C32 or answers according to one, and the same with the engines
exchanged. -/
def Obligations.EnginesAreIndependent : Prop :=
  ∀ (opd : List Byte) (s : State),
    (∀ i ∈ [Instr.c16Init opd, .c16Update opd, .c16Final opd], ∀ (v : Bool) (w : BitVec 32),
      ∃ t, exec i s = .next t ∧ t.c32Valid = s.c32Valid ∧ t.c32State = s.c32State ∧
        exec i { s with c32Valid := v, c32State := w } = .next { t with c32Valid := v, c32State := w }) ∧
    (∀ i ∈ [Instr.c32Init opd, .c32Update opd, .c32Final opd], ∀ (v : Bool) (w : BitVec 16),
      ∃ t, exec i s = .next t ∧ t.c16Valid = s.c16Valid ∧ t.c16State = s.c16State ∧
        exec i { s with c16Valid := v, c16State := w } = .next { t with c16Valid := v, c16State := w })

/-- R29: the codec's commands change no element and answer from the parameters and the operand alone. -/
def Obligations.CodecReadsAndWritesNoState : Prop :=
  ∀ (opd : List Byte) (s s' : State), s.cfg = s'.cfg →
    ∀ i ∈ [Instr.frmEncode opd, .frmDecode opd],
      ∃ response : List Byte, exec i s = .next (s.emit response) ∧ exec i s' = .next (s'.emit response)

/-- R20 (column "Written by"), R59, R262: which commands can change which element; no command changes the parameters or
the commands still waiting. Two clauses go beyond the column, each as another rule has it. The running registers:
SYS.RESET is excepted beside the writers listed, because it leaves them unspecified (R201; the model's choice there: free
values, log entry 4). The chunk `rxdBuf` is `RXD_BUF` with `RXD_LEN` (R31; log entry 5), so it has the writers of both. -/
def Obligations.ElementsChangeOnlyByTheirWriters : Prop :=
  ∀ (i : Instr) (s t : State), exec i s = .next t →
    t.cfg = s.cfg ∧ t.input = s.input ∧
    ((∀ opd, i ≠ .c16Init opd ∧ i ≠ .sysReset opd) → t.c16Valid = s.c16Valid) ∧
    ((∀ opd, i ≠ .c16Init opd ∧ i ≠ .c16Update opd ∧ i ≠ .sysReset opd) → t.c16State = s.c16State) ∧
    ((∀ opd, i ≠ .c32Init opd ∧ i ≠ .sysReset opd) → t.c32Valid = s.c32Valid) ∧
    ((∀ opd, i ≠ .c32Init opd ∧ i ≠ .c32Update opd ∧ i ≠ .sysReset opd) → t.c32State = s.c32State) ∧
    ((∀ opd, i ≠ .rxdPush opd ∧ i ≠ .rxdFlush opd ∧ i ≠ .sysReset opd) →
      t.rxdBuf = s.rxdBuf ∧ t.rxdOvf = s.rxdOvf)

/-- R223: what an error leaves. BAD_LENGTH and NOT_INIT change nothing (ILLEGAL_OP: a reserved opcode); FRM.DECODE
changes nothing whatever it answers; a terminator pushed to RXD has cleared the chunk, nothing else. -/
def Obligations.ErrorsChangeNothingButTheChunk : Prop :=
  (∀ (i : Instr) (s t : State) (st : Status) (data : List Byte), exec i s = .next t →
    t.output = s.output ++ [responsePacket st data] →
    ((st = .badLength ∨ st = .notInit) → t = s.emit (responsePacket st data)) ∧
    ((st = .formatError ∨ st = .checksumError) →
      (∃ opd, i = .frmDecode opd ∧ t = s.emit (responsePacket st data)) ∨
      (i = .rxdPush [terminator] ∧
        t = { s with rxdBuf := [], rxdOvf := false }.emit (responsePacket st data)))) ∧
  (∀ (opd : List Byte) (s : State), ∃ response, exec (.frmDecode opd) s = .next (s.emit response)) ∧
  (∀ (s : State) (p : List Byte) (rest : List (List Byte)) (opc : Byte), s.input = p :: rest →
    decode p = .illegalOp opc → step s = .next ({ s with input := rest }.emit [0x80, 0x00, 0x00]))

/-! ### Reset and system commands -/

/-- R260: the specified reset values, for every build. -/
def Obligations.ResetValues : Prop :=
  ∀ c : Config, (State.resetWith c).c16Valid = false ∧ (State.resetWith c).c32Valid = false ∧
    (State.resetWith c).rxdLen = 0 ∧ (State.resetWith c).rxdOvf = false

/-- R261: SYS.RESET and the hardware reset leave the same state, up to the registers that both leave unspecified;
SYS.RESET in addition answers OK. It holds whatever the free values are. -/
def Obligations.SysResetLeavesTheResetState : Prop :=
  ∀ s : State, ∃ t, exec (.sysReset []) s = .next t ∧ t.SameUnits (State.resetWith s.cfg) ∧
    t.output = s.output ++ [[0x00, 0x00, 0x00]]

/-- R200: SYS.NOP. -/
def Obligations.SysNopAnswersOk : Prop :=
  ∀ (opd : List Byte) (s : State),
    (opd.length ≠ 0 → exec (.sysNop opd) s = .next (s.emit [0x81, 0x00, 0x00])) ∧
    (opd.length = 0 → exec (.sysNop opd) s = .next (s.emit [0x00, 0x00, 0x00]))

/-- R201: SYS.RESET clears the three flags and the chunk; the running registers hold some value `a`, `b` afterwards
(unspecified; `n` is the model's own counter, log entry 4); everything else is unchanged. -/
def Obligations.SysResetClearsFlagsAndChunk : Prop :=
  ∀ (opd : List Byte) (s : State),
    (opd.length ≠ 0 → exec (.sysReset opd) s = .next (s.emit [0x81, 0x00, 0x00])) ∧
    (opd.length = 0 → ∃ (a : BitVec 16) (b : BitVec 32) (n : Nat), exec (.sysReset opd) s =
      .next ({ s with c16Valid := false, c16State := a, c32Valid := false, c32State := b, rxdBuf := [],
                      rxdOvf := false, freeCount := n }.emit [0x00, 0x00, 0x00]))

/-- R202: SYS.STATUS answers the three flags in bits 0 to 2 of one byte, bits 7:3 zero, then `RXD_LEN` little-endian, and
changes nothing. -/
def Obligations.SysStatusShowsFlagsAndLength : Prop :=
  ∀ (opd : List Byte) (s : State),
    (opd.length ≠ 0 → exec (.sysStatus opd) s = .next (s.emit [0x81, 0x00, 0x00])) ∧
    (opd.length = 0 → ∃ flags lo hi : Byte,
      exec (.sysStatus opd) s = .next (s.emit [0x00, 0x03, 0x00, flags, lo, hi]) ∧
      flags.getLsbD 0 = s.c16Valid ∧ flags.getLsbD 1 = s.c32Valid ∧ flags.getLsbD 2 = s.rxdOvf ∧
      (∀ k, 3 ≤ k → flags.getLsbD k = false) ∧
      lo.toNat + 256 * hi.toNat = s.rxdLen.toNat ∧
      (s.Inv → lo.toNat + 256 * hi.toNat = s.rxdBuf.length))

/-! ### The frame codec's commands -/

/-- R120, R80: FRM.ENCODE with no id or with more than MaxPayload payload bytes constructs nothing; otherwise it answers
the encoded stream. No element is changed. -/
def Obligations.FrmEncodeAnswersTheStream : Prop :=
  ∀ (opd : List Byte) (s : State),
    (opd.length = 0 ∨ s.cfg.maxPayload.val + 1 < opd.length →
      exec (.frmEncode opd) s = .next (s.emit [0x81, 0x00, 0x00])) ∧
    (∀ (id : Byte) (payload : List Byte), opd = id :: payload → opd.length ≤ s.cfg.maxPayload.val + 1 →
      exec (.frmEncode opd) s = .next (s.emit (responsePacket .ok
        (stuff s.cfg.stuffAlg (cksBytes s.cfg.cksumOrder (crc s.cfg.p16 (id :: payload)) ++ id :: payload) ++
          [terminator]))))

/-- R121: FRM.DECODE accepts every operand, the empty one included, and answers by the outcome of `DecodeFrame`; no
element is changed. -/
def Obligations.FrmDecodeAnswersTheOutcome : Prop :=
  ∀ (opd : List Byte) (s : State),
    exec (.frmDecode opd) s = .next (s.emit
      (match decodeFrame s.cfg opd with
        | .frame f => responsePacket .ok (cksBytes s.cfg.cksumOrder f.checksum ++ [f.id] ++ f.payload)
        | .formatError cause => responsePacket .formatError [cause.code]
        | .checksumError received computed => responsePacket .checksumError (le16 received ++ le16 computed))) ∧
    exec (.frmDecode []) s = .next (s.emit [0x90, 0x01, 0x00, 0x01])

/-- R120, R121, R112: what FRM.ENCODE answers, FRM.DECODE in any state of the same build answers with the raw frame; the
stream is at most `RxCap + 1` bytes (R104, R127). -/
def Obligations.FrmDecodeUndoesFrmEncode : Prop :=
  ∀ (id : Byte) (payload : List Byte) (s s' : State), s.cfg = s'.cfg → payload.length ≤ s.cfg.maxPayload.val →
    ∃ stream : List Byte, stream.length ≤ rxCap s.cfg + 1 ∧
      exec (.frmEncode (id :: payload)) s = .next (s.emit (responsePacket .ok stream)) ∧
      exec (.frmDecode stream) s' = .next (s'.emit (responsePacket .ok
        (cksBytes s.cfg.cksumOrder (crc s.cfg.p16 (id :: payload)) ++ id :: payload)))

/-! ### The engines' commands -/

/-- R160, R161, R162: C16.INIT, C16.UPDATE, C16.FINAL, with BAD_LENGTH before NOT_INIT; nothing else changes. -/
def Obligations.C16CommandsFollowTheirRules : Prop :=
  ∀ (opd : List Byte) (s : State),
    (opd.length ≠ 0 → exec (.c16Init opd) s = .next (s.emit [0x81, 0x00, 0x00])) ∧
    (opd.length = 0 → exec (.c16Init opd) s =
      .next ({ s with c16State := s.cfg.p16.init, c16Valid := true }.emit [0x00, 0x00, 0x00])) ∧
    (s.c16Valid = false → exec (.c16Update opd) s = .next (s.emit [0x82, 0x00, 0x00])) ∧
    (s.c16Valid = true → exec (.c16Update opd) s =
      .next ({ s with c16State := crcUpdate s.cfg.p16 s.c16State opd }.emit [0x00, 0x00, 0x00])) ∧
    (opd.length ≠ 0 → exec (.c16Final opd) s = .next (s.emit [0x81, 0x00, 0x00])) ∧
    (opd.length = 0 → s.c16Valid = false → exec (.c16Final opd) s = .next (s.emit [0x82, 0x00, 0x00])) ∧
    (opd.length = 0 → s.c16Valid = true → exec (.c16Final opd) s =
      .next (s.emit (responsePacket .ok (le16 (crcFinalize s.cfg.p16 s.c16State)))))

/-- R163, R164, R165: C32.INIT, C32.UPDATE, C32.FINAL, the value at its full 32 bits; nothing else changes. -/
def Obligations.C32CommandsFollowTheirRules : Prop :=
  ∀ (opd : List Byte) (s : State),
    (opd.length ≠ 0 → exec (.c32Init opd) s = .next (s.emit [0x81, 0x00, 0x00])) ∧
    (opd.length = 0 → exec (.c32Init opd) s =
      .next ({ s with c32State := s.cfg.p32.init, c32Valid := true }.emit [0x00, 0x00, 0x00])) ∧
    (s.c32Valid = false → exec (.c32Update opd) s = .next (s.emit [0x82, 0x00, 0x00])) ∧
    (s.c32Valid = true → exec (.c32Update opd) s =
      .next ({ s with c32State := crcUpdate s.cfg.p32 s.c32State opd }.emit [0x00, 0x00, 0x00])) ∧
    (opd.length ≠ 0 → exec (.c32Final opd) s = .next (s.emit [0x81, 0x00, 0x00])) ∧
    (opd.length = 0 → s.c32Valid = false → exec (.c32Final opd) s = .next (s.emit [0x82, 0x00, 0x00])) ∧
    (opd.length = 0 → s.c32Valid = true → exec (.c32Final opd) s =
      .next (s.emit (responsePacket .ok (le32 (crcFinalize s.cfg.p32 s.c32State)))))

/-- R26, R153, R265: in any run of commands without INIT of C16 and without SYS.RESET, whatever other commands stand in
between, the running register is the update of the old one by the operands of the C16.UPDATE commands in order. -/
def Obligations.InterleavedCommandsKeepTheC16Message : Prop :=
  ∀ (commands : List Instr) (s : State), s.c16Valid = true →
    (∀ i ∈ commands, i ≠ .c16Init [] ∧ i ≠ .sysReset []) →
    ∃ t, execAll commands s = .next t ∧ t.c16Valid = true ∧
      t.c16State = crcUpdate s.cfg.p16 s.c16State (commands.flatMap c16MessageBytes)

/-- R26, R153, R265, for C32. -/
def Obligations.InterleavedCommandsKeepTheC32Message : Prop :=
  ∀ (commands : List Instr) (s : State), s.c32Valid = true →
    (∀ i ∈ commands, i ≠ .c32Init [] ∧ i ≠ .sysReset []) →
    ∃ t, execAll commands s = .next t ∧ t.c32Valid = true ∧
      t.c32State = crcUpdate s.cfg.p32 s.c32State (commands.flatMap c32MessageBytes)

/-- R145, R153, R82: INIT, any split of a message into UPDATE operands (empty ones included), FINAL: the answer is the
checksum of the whole message, in any state before, for both engines. -/
def Obligations.SplitMessagesHaveTheWholeChecksum : Prop :=
  ∀ (pieces : List (List Byte)) (s : State),
    (∃ t, execAll (.c16Init [] :: pieces.map .c16Update ++ [.c16Final []]) s = .next t ∧
      t.output = s.output ++ List.replicate (pieces.length + 1) [0x00, 0x00, 0x00] ++
        [responsePacket .ok (le16 (crc s.cfg.p16 pieces.flatten))]) ∧
    (∃ t, execAll (.c32Init [] :: pieces.map .c32Update ++ [.c32Final []]) s = .next t ∧
      t.output = s.output ++ List.replicate (pieces.length + 1) [0x00, 0x00, 0x00] ++
        [responsePacket .ok (le32 (crc s.cfg.p32 pieces.flatten))])

/-! ### The delimiter's commands -/

/-- R181: RXD.PUSH. A byte that is not the terminator is stored or, with the buffer full, dropped with `RXD_OVF` set; a
terminator clears the chunk always and answers OVERFLOW or the outcome of decoding the chunk with its terminator, whose
cause is never NO_TERMINATOR or EMBEDDED_TERMINATOR on a chunk without a terminator. Nothing else changes. -/
def Obligations.RxdPushFollowsItsRule : Prop :=
  (∀ (opd : List Byte) (s : State), opd.length ≠ 1 →
    exec (.rxdPush opd) s = .next (s.emit [0x81, 0x00, 0x00])) ∧
  (∀ (b : Byte) (s : State), b ≠ terminator → s.rxdBuf.length < rxCap s.cfg →
    exec (.rxdPush [b]) s = .next ({ s with rxdBuf := s.rxdBuf ++ [b] }.emit [0x01, 0x00, 0x00])) ∧
  (∀ (b : Byte) (s : State), b ≠ terminator → ¬ s.rxdBuf.length < rxCap s.cfg →
    exec (.rxdPush [b]) s = .next ({ s with rxdOvf := true }.emit [0x01, 0x00, 0x00])) ∧
  (∀ s : State, s.rxdOvf = true →
    exec (.rxdPush [terminator]) s = .next ({ s with rxdBuf := [], rxdOvf := false }.emit [0x90, 0x01, 0x00, 0x06])) ∧
  (∀ s : State, s.rxdOvf = false → exec (.rxdPush [terminator]) s =
    .next ({ s with rxdBuf := [], rxdOvf := false }.emit
      (match decodeFrame s.cfg (s.rxdBuf ++ [terminator]) with
        | .frame f => responsePacket .ok (cksBytes s.cfg.cksumOrder f.checksum ++ [f.id] ++ f.payload)
        | .formatError cause => responsePacket .formatError [cause.code]
        | .checksumError received computed => responsePacket .checksumError (le16 received ++ le16 computed)))) ∧
  (∀ s : State, s.Inv → decodeFrame s.cfg (s.rxdBuf ++ [terminator]) ≠ .formatError .noTerminator ∧
    decodeFrame s.cfg (s.rxdBuf ++ [terminator]) ≠ .formatError .embeddedTerminator)

/-- R182: RXD.FLUSH discards the chunk without decoding; nothing else changes. -/
def Obligations.RxdFlushDiscardsTheChunk : Prop :=
  ∀ (opd : List Byte) (s : State),
    (opd.length ≠ 0 → exec (.rxdFlush opd) s = .next (s.emit [0x81, 0x00, 0x00])) ∧
    (opd.length = 0 → exec (.rxdFlush opd) s =
      .next ({ s with rxdBuf := [], rxdOvf := false }.emit [0x00, 0x00, 0x00]))

/-- R183: push by push, the bounded delimiter answers as the unbounded one, except that for a chunk longer than `RxCap` it
may say OVERFLOW where the unbounded one says BAD_STUFFING or TOO_LONG. -/
def Obligations.BoundedBufferIsInvisibleInStatuses : Prop :=
  ∀ (s : State) (bytes : List Byte), s.rxdBuf = [] → s.rxdOvf = false →
    ∃ (t : State) (answers : List (Status × List Byte)), feed bytes s = .next t ∧
      t.output = s.output ++ answers.map (fun a => responsePacket a.1 a.2) ∧
      List.Forall₂ (fun a u => a.1 = u.status ∧
        (a.2 = u.data ∨
          (rxCap s.cfg < u.chunkLength ∧ a.1 = .formatError ∧ a.2 = [Cause.overflow.code] ∧
            (u.data = [Cause.badStuffing.code] ∨ u.data = [Cause.tooLong.code]))))
        answers (unboundedFeed s.cfg [] bytes)

/-- R184: after one terminator, whatever the chunk and the garbage before it, every frame pushed is answered PENDING byte
by byte and then OK with its raw frame; and at once when the chunk was empty. -/
def Obligations.DelimiterResynchronises : Prop :=
  ∀ (s : State) (messages : List (Byte × List Byte)), (∀ m ∈ messages, m.2.length ≤ s.cfg.maxPayload.val) →
    (∀ g : List Byte, terminator ∉ g → ∃ (t : State) (first : List Byte),
      feed (g ++ [terminator] ++ messages.flatMap (encodeMessage s.cfg)) s = .next t ∧
      t.output = s.output ++ List.replicate g.length [0x01, 0x00, 0x00] ++ [first] ++
        messages.flatMap (messageResponses s.cfg)) ∧
    (s.rxdBuf = [] → s.rxdOvf = false → ∃ t : State,
      feed (messages.flatMap (encodeMessage s.cfg)) s = .next t ∧
      t.output = s.output ++ messages.flatMap (messageResponses s.cfg))

/-! ### Laws of the frame codec -/

/-- R112: the frame round trip, for every build. -/
def Obligations.DecodeOfEncodeIsTheFrame : Prop :=
  ∀ (c : Config) (id : Byte) (payload : List Byte), payload.length ≤ c.maxPayload.val →
    decodeFrame c (encodeFrame c id payload) = .frame ⟨id, payload, crc c.p16 (id :: payload)⟩

/-- R113: the encoded stream ends in the zero byte, which is the terminator, and holds it nowhere else. -/
def Obligations.EncodedStreamHasOneTerminator : Prop :=
  terminator.toNat = 0 ∧ ∀ (c : Config) (id : Byte) (payload : List Byte),
    (encodeFrame c id payload).getLast? = some terminator ∧
    ∀ k, k + 1 < (encodeFrame c id payload).length → (encodeFrame c id payload)[k]? ≠ some terminator

/-- R102: the contract on the stuffing, for both instances. -/
def Obligations.StuffingMeetsItsContract : Prop :=
  ∀ (alg : StuffAlg) (r : List Byte),
    (∀ b ∈ stuff alg r, b ≠ terminator) ∧ unstuff alg (stuff alg r) = some r

/-- R104: the length of `Stuff(r)` at COBS, where each bound is met, and the length of an encoded stream. -/
def Obligations.CobsLengthBounds : Prop :=
  (∀ r : List Byte,
    r.length + 1 ≤ (stuffCobs r).length ∧ (stuffCobs r).length ≤ r.length + r.length / 254 + 1 ∧
    ((∀ before run after, r = before ++ run ++ after → 254 ≤ run.length → terminator ∈ run) →
      (stuffCobs r).length = r.length + 1) ∧
    (terminator ∉ r → (stuffCobs r).length = r.length + r.length / 254 + 1)) ∧
  (∀ (c : Config) (id : Byte) (payload : List Byte), c.stuffAlg = .cobs → payload.length ≤ c.maxPayload.val →
    (encodeFrame c id payload).length ≤ rxCap c + 1)

/-- R107: a body is not much longer than what it unstuffs to, at both instances; so a body longer than `RxCap` never
decodes to a frame. -/
def Obligations.LongBodiesNeverDecode : Prop :=
  (∀ (alg : StuffAlg) (body raw : List Byte), terminator ∉ body → unstuff alg body = some raw →
    body.length ≤ raw.length + raw.length / 254 + 1) ∧
  (∀ (c : Config) (body : List Byte), terminator ∉ body → rxCap c < body.length →
    (unstuff c.stuffAlg body = none ∨ ∃ raw, unstuff c.stuffAlg body = some raw ∧ rawMax c < raw.length) ∧
    ∀ f, decodeFrame c (body ++ [terminator]) ≠ .frame f)

/-- R126, R127: COBS/R reads every body that COBS reads, with the same result, and never writes a longer one. -/
def Obligations.CobsrExtendsCobs : Prop :=
  (∀ body raw : List Byte, terminator ∉ body → unstuffCobs body = some raw → unstuffCobsr body = raw) ∧
  (∀ raw : List Byte, (stuffCobsr raw).length ≤ (stuffCobs raw).length)

/-- R110: the outcome of `DecodeFrame` by the first failing check, each check in terms of the stream itself. -/
def Obligations.DecodeReportsTheFirstFailingCheck : Prop :=
  ∀ (c : Config) (s : List Byte),
    ((s = [] ∨ ∃ front last, s = front ++ [last] ∧ last ≠ terminator) →
      decodeFrame c s = .formatError .noTerminator) ∧
    (∀ body : List Byte, s = body ++ [terminator] →
      (terminator ∈ body → decodeFrame c s = .formatError .embeddedTerminator) ∧
      (terminator ∉ body →
        (unstuff c.stuffAlg body = none → decodeFrame c s = .formatError .badStuffing) ∧
        (∀ raw, unstuff c.stuffAlg body = some raw →
          (raw.length < 3 → decodeFrame c s = .formatError .tooShort) ∧
          (c.maxPayload.val + 3 < raw.length → decodeFrame c s = .formatError .tooLong) ∧
          (∀ k0 k1 id payload, raw = k0 :: k1 :: id :: payload → raw.length ≤ c.maxPayload.val + 3 →
            (cksValue c.cksumOrder k0 k1 ≠ crc c.p16 (id :: payload) →
              decodeFrame c s = .checksumError (cksValue c.cksumOrder k0 k1) (crc c.p16 (id :: payload))) ∧
            (cksValue c.cksumOrder k0 k1 = crc c.p16 (id :: payload) →
              decodeFrame c s = .frame ⟨id, payload, cksValue c.cksumOrder k0 k1⟩)))))

/-- R110, R107, R112: the body of an accepted stream unstuffs to a legal raw frame with its own checksum and is no longer
than the longest body, and the frame it gives encodes to a stream that decodes to the same frame. The accepted stream
need not be that encoded stream: unstuffing is lenient (R108). -/
def Obligations.AcceptedStreamsAreFrames : Prop :=
  ∀ (c : Config) (s : List Byte) (f : Frame), decodeFrame c s = .frame f →
    f.payload.length ≤ c.maxPayload.val ∧ f.checksum = crc c.p16 (f.id :: f.payload) ∧
    (∃ body, s = body ++ [terminator] ∧ terminator ∉ body ∧ body.length ≤ rxCap c ∧
      unstuff c.stuffAlg body = some (cksBytes c.cksumOrder f.checksum ++ f.id :: f.payload)) ∧
    decodeFrame c (encodeFrame c f.id f.payload) = .frame f

/-- R116: the concatenation of encoded streams, cut after every terminator, gives them back; a reader that begins inside
the first one gets a damaged piece and then exactly the others. -/
def Obligations.StreamsAreSelfDelimiting : Prop :=
  ∀ (c : Config) (messages : List (Byte × List Byte)),
    cutAtTerminators [] (messages.flatMap (encodeMessage c)) = messages.map (encodeMessage c) ∧
    ∀ (m : Byte × List Byte) (missed tail : List Byte), encodeMessage c m = missed ++ tail → tail ≠ [] →
      cutAtTerminators [] (tail ++ messages.flatMap (encodeMessage c)) = tail :: messages.map (encodeMessage c)

/-! ### Laws of the engines and of the packing -/

/-- R145: streaming. It holds whatever the byte step is, so nothing in it rests on log entry 14. -/
def Obligations.CrcUpdateIsStreaming : Prop :=
  ∀ (W : Nat) (P : CrcParams W) (s : BitVec W) (a b : List Byte),
    crcUpdate P s (a ++ b) = crcUpdate P (crcUpdate P s a) b ∧ crcUpdate P s [] = s

/-- R146: the reflected formulation, byte by byte, at finalisation and for a whole message, at every width of at least 8
bits. -/
def Obligations.ReflectedCrcIsEquivalent : Prop :=
  ∀ (W : Nat) (P : CrcParams W), 8 ≤ W → P.refin = true → P.refout = true →
    (∀ (s : BitVec W) (b : Byte), reflect (crcByte P s b) = byteR (reflect P.poly) (reflect s) b) ∧
    (∀ s : BitVec W, crcFinalize P s = reflect s ^^^ P.xorout) ∧
    (∀ m : List Byte, crc P m = m.foldl (byteR (reflect P.poly)) (reflect P.init) ^^^ P.xorout)

/-- R11: bit reflection, bit by bit. -/
def Obligations.ReflectMovesEachBit : Prop :=
  (∀ (W : Nat) (v : BitVec W) (i : Nat), i < W → (reflect v).getLsbD i = v.getLsbD (W - 1 - i)) ∧
  reflect (0x31 : BitVec 8) = 0x8C ∧ reflect (0x1021 : BitVec 16) = 0x8408 ∧
  reflect (0x04C11DB7 : BitVec 32) = 0xEDB88320

/-- R12: the packings of 16-bit and 32-bit values, byte by byte, and their inverses. -/
def Obligations.PackingsAreLittleEndianAndInvertible : Prop :=
  (∀ a b : Byte, (unle16 a b).toNat = a.toNat + 256 * b.toNat ∧ le16 (unle16 a b) = [a, b] ∧
    be16 (unle16 a b) = [b, a]) ∧
  (∀ v : BitVec 16, ∃ lo hi : Byte, le16 v = [lo, hi] ∧ be16 v = [hi, lo] ∧ lo.toNat = v.toNat % 256 ∧
    hi.toNat = v.toNat / 256 ∧ unle16 lo hi = v) ∧
  (∀ (o : CksumOrder) (v : BitVec 16), ∃ k0 k1 : Byte, cksBytes o v = [k0, k1] ∧ cksValue o k0 k1 = v ∧
    (o = .le → cksBytes o v = le16 v) ∧ (o = .be → cksBytes o v = be16 v)) ∧
  (∀ v : BitVec 32, ∃ b0 b1 b2 b3 : Byte, le32 v = [b0, b1, b2, b3] ∧
    v.toNat = b0.toNat + 256 * b1.toNat + 65536 * b2.toNat + 16777216 * b3.toNat)
end

