-- ==== Sys2Proof/Laws/PerInstr.lean ====
section
/-! SUPPORT. The opcode map selects every command by its own opcode (30_encoding.md R74, R75), one lemma per command. -/

namespace Sys2Proof.Laws.OpcodeSelects

/-- The opcode of the command, with its operand bytes, is read back as the command. -/
def Statement (i : Instr) : Prop := instrOf i.opc i.opd = some i

theorem sysNop (opd : List Byte) : Statement (.sysNop opd) := by
  simp [Statement, instrOf, opcodeTable, OpcodeRow.selects, Instr.opc, Instr.opd]
theorem sysReset (opd : List Byte) : Statement (.sysReset opd) := by
  simp [Statement, instrOf, opcodeTable, OpcodeRow.selects, Instr.opc, Instr.opd]
theorem sysStatus (opd : List Byte) : Statement (.sysStatus opd) := by
  simp [Statement, instrOf, opcodeTable, OpcodeRow.selects, Instr.opc, Instr.opd]
theorem frmEncode (opd : List Byte) : Statement (.frmEncode opd) := by
  simp [Statement, instrOf, opcodeTable, OpcodeRow.selects, Instr.opc, Instr.opd]
theorem frmDecode (opd : List Byte) : Statement (.frmDecode opd) := by
  simp [Statement, instrOf, opcodeTable, OpcodeRow.selects, Instr.opc, Instr.opd]
theorem c16Init (opd : List Byte) : Statement (.c16Init opd) := by
  simp [Statement, instrOf, opcodeTable, OpcodeRow.selects, Instr.opc, Instr.opd]
theorem c16Update (opd : List Byte) : Statement (.c16Update opd) := by
  simp [Statement, instrOf, opcodeTable, OpcodeRow.selects, Instr.opc, Instr.opd]
theorem c16Final (opd : List Byte) : Statement (.c16Final opd) := by
  simp [Statement, instrOf, opcodeTable, OpcodeRow.selects, Instr.opc, Instr.opd]
theorem c32Init (opd : List Byte) : Statement (.c32Init opd) := by
  simp [Statement, instrOf, opcodeTable, OpcodeRow.selects, Instr.opc, Instr.opd]
theorem c32Update (opd : List Byte) : Statement (.c32Update opd) := by
  simp [Statement, instrOf, opcodeTable, OpcodeRow.selects, Instr.opc, Instr.opd]
theorem c32Final (opd : List Byte) : Statement (.c32Final opd) := by
  simp [Statement, instrOf, opcodeTable, OpcodeRow.selects, Instr.opc, Instr.opd]
theorem rxdPush (opd : List Byte) : Statement (.rxdPush opd) := by
  simp [Statement, instrOf, opcodeTable, OpcodeRow.selects, Instr.opc, Instr.opd]
theorem rxdFlush (opd : List Byte) : Statement (.rxdFlush opd) := by
  simp [Statement, instrOf, opcodeTable, OpcodeRow.selects, Instr.opc, Instr.opd]

end Sys2Proof.Laws.OpcodeSelects
end

