-- ==== Sys2Proof/Laws/Packets.lean ====
section
/-! SUPPORT. Packing of numbers, the opcode map read from both sides, and the decoder on a packet built from its fields. -/

namespace Sys2Proof

/-! ### Packing (00_scope.md R12) -/

theorem unle16_toNat (a b : Byte) : (unle16 a b).toNat = a.toNat + 256 * b.toNat := by
  have ha := a.isLt
  rw [unle16, BitVec.toNat_append, Nat.shiftLeft_eq, Nat.mul_comm, ← Nat.two_pow_add_eq_or_of_lt ha]
  omega

theorem le16_eq (v : BitVec 16) :
    le16 v = [BitVec.ofNat 8 v.toNat, BitVec.ofNat 8 (v.toNat / 256)] := by
  simp only [le16, List.cons.injEq, and_true]
  constructor <;> apply BitVec.eq_of_toNat_eq <;>
    simp [BitVec.extractLsb'_toNat, Nat.shiftRight_eq_div_pow]

@[simp] theorem le16_length (v : BitVec 16) : (le16 v).length = 2 := rfl
@[simp] theorem be16_length (v : BitVec 16) : (be16 v).length = 2 := rfl
@[simp] theorem le32_length (v : BitVec 32) : (le32 v).length = 4 := rfl

/-- The length field of a packet reads back as the length, below 2^16 (30_encoding.md R70). -/
theorem unle16_of_le16 (v : BitVec 16) :
    (unle16 (BitVec.ofNat 8 v.toNat) (BitVec.ofNat 8 (v.toNat / 256))).toNat = v.toNat := by
  have hv := v.isLt
  rw [unle16_toNat, BitVec.toNat_ofNat, BitVec.toNat_ofNat]
  omega

/-! ### The opcode map (R74, R75) -/

theorem instrOf_opc (i : Instr) : instrOf i.opc i.opd = some i := by
  cases i with
  | sysNop opd => exact Laws.OpcodeSelects.sysNop opd
  | sysReset opd => exact Laws.OpcodeSelects.sysReset opd
  | sysStatus opd => exact Laws.OpcodeSelects.sysStatus opd
  | frmEncode opd => exact Laws.OpcodeSelects.frmEncode opd
  | frmDecode opd => exact Laws.OpcodeSelects.frmDecode opd
  | c16Init opd => exact Laws.OpcodeSelects.c16Init opd
  | c16Update opd => exact Laws.OpcodeSelects.c16Update opd
  | c16Final opd => exact Laws.OpcodeSelects.c16Final opd
  | c32Init opd => exact Laws.OpcodeSelects.c32Init opd
  | c32Update opd => exact Laws.OpcodeSelects.c32Update opd
  | c32Final opd => exact Laws.OpcodeSelects.c32Final opd
  | rxdPush opd => exact Laws.OpcodeSelects.rxdPush opd
  | rxdFlush opd => exact Laws.OpcodeSelects.rxdFlush opd

/-- A command read from the map has the opcode and the operand bytes it was read from. -/
theorem instrOf_some {opc : Byte} {opd : List Byte} {i : Instr} (h : instrOf opc opd = some i) :
    i.opc = opc ∧ i.opd = opd := by
  obtain ⟨r, hr, rfl⟩ := Option.map_eq_some_iff.mp h
  have hsel : opc = r.value := by
    have hmask : r.mask = 0xFF := by
      have : ∀ q ∈ opcodeTable, q.mask = 0xFF := by simp [opcodeTable]
      exact this r (List.mem_of_find?_eq_some hr)
    have := List.find?_some hr
    simp only [OpcodeRow.selects, hmask, beq_iff_eq] at this
    rw [← this]
    exact (BitVec.and_allOnes (x := opc)).symm
  subst hsel
  have hmem := List.mem_of_find?_eq_some hr
  simp only [opcodeTable, List.mem_cons, List.not_mem_nil, or_false] at hmem
  rcases hmem with rfl | rfl | rfl | rfl | rfl | rfl | rfl | rfl | rfl | rfl | rfl | rfl | rfl <;> exact ⟨rfl, rfl⟩

/-! ### The decoder (R70, R71, R78) -/

/-- The decoder on a packet built from its fields: only the opcode decides. -/
theorem decode_packetBytes (opc : Byte) (opd : List Byte) (h : opd.length ≤ 65535) :
    decode (packetBytes opc opd) =
      match instrOf opc opd with
      | some i => .command i
      | none => .illegalOp opc := by
  have hlen : (BitVec.ofNat 16 opd.length).toNat = opd.length := by
    rw [BitVec.toNat_ofNat]; omega
  have hback := unle16_of_le16 (BitVec.ofNat 16 opd.length)
  rw [hlen] at hback
  rw [packetBytes, le16_eq, hlen]
  simp only [List.cons_append, List.nil_append, decode, hback, if_true]
  all_goals (cases instrOf opc opd <;> rfl)

/-- What each answer of the decoder says about the byte string. -/
theorem decode_cases (p : List Byte) :
    (decode p = .malformed ∧ ∀ opc opd, opd.length ≤ 65535 → p ≠ packetBytes opc opd) ∨
    ∃ opc opd, opd.length ≤ 65535 ∧ p = packetBytes opc opd ∧
      decode p = match instrOf opc opd with
        | some i => .command i
        | none => .illegalOp opc := by
  by_cases h : ∃ opc opd, opd.length ≤ 65535 ∧ p = packetBytes opc opd
  · obtain ⟨opc, opd, hl, rfl⟩ := h
    exact .inr ⟨opc, opd, hl, rfl, decode_packetBytes opc opd hl⟩
  · refine .inl ⟨?_, fun opc opd hl hp => h ⟨opc, opd, hl, hp⟩⟩
    unfold decode
    split
    · rename_i opc lo hi opd
      split
      · rename_i hlen
        refine absurd ⟨opc, opd, ?_, ?_⟩ h
        · have := (unle16 lo hi).isLt
          omega
        · have hv : BitVec.ofNat 16 opd.length = unle16 lo hi := by
            rw [hlen, BitVec.ofNat_toNat, BitVec.setWidth_eq]
          rw [packetBytes, le16_eq, hv, unle16_toNat]
          have ha := lo.isLt
          have hb := hi.isLt
          simp only [List.cons_append, List.nil_append, List.cons.injEq, true_and, and_true]
          constructor <;> apply BitVec.eq_of_toNat_eq <;> rw [BitVec.toNat_ofNat] <;> omega
      · rfl
    · rfl

/-! ### Responses (R72, R76) -/

theorem Machine.Status.code_injective {a b : Machine.Status} (h : a.code = b.code) : a = b := by
  revert h; cases a <;> cases b <;> decide

/-- A response packet determines its status and its data. -/
theorem Machine.responsePacket_inj {st st' : Machine.Status} {d d' : List Byte} :
    Machine.responsePacket st d = Machine.responsePacket st' d' ↔ st = st' ∧ d = d' := by
  constructor
  · intro h
    simp only [Machine.responsePacket, le16, List.cons_append, List.nil_append, List.cons.injEq] at h
    exact ⟨Machine.Status.code_injective h.1, h.2.2.2⟩
  · rintro ⟨rfl, rfl⟩; rfl

end Sys2Proof
end

