-- ==== Sys2Proof/Laws/State.lean ====
section
/-! SUPPORT. What each write of `Machine/Ops.lean` leaves in each field of the state: one lemma per field per update. -/

namespace Sys2Proof.Machine.State

variable (s : State)

/-! ### emit -/

@[simp] theorem emit_cfg (p : List Byte) : (s.emit p).cfg = s.cfg := rfl
@[simp] theorem emit_c16Valid (p : List Byte) : (s.emit p).c16Valid = s.c16Valid := rfl
@[simp] theorem emit_c16State (p : List Byte) : (s.emit p).c16State = s.c16State := rfl
@[simp] theorem emit_c32Valid (p : List Byte) : (s.emit p).c32Valid = s.c32Valid := rfl
@[simp] theorem emit_c32State (p : List Byte) : (s.emit p).c32State = s.c32State := rfl
@[simp] theorem emit_rxdBuf (p : List Byte) : (s.emit p).rxdBuf = s.rxdBuf := rfl
@[simp] theorem emit_rxdOvf (p : List Byte) : (s.emit p).rxdOvf = s.rxdOvf := rfl
@[simp] theorem emit_freeCount (p : List Byte) : (s.emit p).freeCount = s.freeCount := rfl
@[simp] theorem emit_input (p : List Byte) : (s.emit p).input = s.input := rfl
@[simp] theorem emit_output (p : List Byte) : (s.emit p).output = s.output ++ [p] := rfl

/-! ### initC16 -/

@[simp] theorem initC16_cfg (v : BitVec 16) : (s.initC16 v).cfg = s.cfg := rfl
@[simp] theorem initC16_c16Valid (v : BitVec 16) : (s.initC16 v).c16Valid = true := rfl
@[simp] theorem initC16_c16State (v : BitVec 16) : (s.initC16 v).c16State = v := rfl
@[simp] theorem initC16_c32Valid (v : BitVec 16) : (s.initC16 v).c32Valid = s.c32Valid := rfl
@[simp] theorem initC16_c32State (v : BitVec 16) : (s.initC16 v).c32State = s.c32State := rfl
@[simp] theorem initC16_rxdBuf (v : BitVec 16) : (s.initC16 v).rxdBuf = s.rxdBuf := rfl
@[simp] theorem initC16_rxdOvf (v : BitVec 16) : (s.initC16 v).rxdOvf = s.rxdOvf := rfl
@[simp] theorem initC16_freeCount (v : BitVec 16) : (s.initC16 v).freeCount = s.freeCount := rfl
@[simp] theorem initC16_input (v : BitVec 16) : (s.initC16 v).input = s.input := rfl
@[simp] theorem initC16_output (v : BitVec 16) : (s.initC16 v).output = s.output := rfl

/-! ### setC16 -/

@[simp] theorem setC16_cfg (v : BitVec 16) : (s.setC16 v).cfg = s.cfg := rfl
@[simp] theorem setC16_c16Valid (v : BitVec 16) : (s.setC16 v).c16Valid = s.c16Valid := rfl
@[simp] theorem setC16_c16State (v : BitVec 16) : (s.setC16 v).c16State = v := rfl
@[simp] theorem setC16_c32Valid (v : BitVec 16) : (s.setC16 v).c32Valid = s.c32Valid := rfl
@[simp] theorem setC16_c32State (v : BitVec 16) : (s.setC16 v).c32State = s.c32State := rfl
@[simp] theorem setC16_rxdBuf (v : BitVec 16) : (s.setC16 v).rxdBuf = s.rxdBuf := rfl
@[simp] theorem setC16_rxdOvf (v : BitVec 16) : (s.setC16 v).rxdOvf = s.rxdOvf := rfl
@[simp] theorem setC16_freeCount (v : BitVec 16) : (s.setC16 v).freeCount = s.freeCount := rfl
@[simp] theorem setC16_input (v : BitVec 16) : (s.setC16 v).input = s.input := rfl
@[simp] theorem setC16_output (v : BitVec 16) : (s.setC16 v).output = s.output := rfl

/-! ### initC32 -/

@[simp] theorem initC32_cfg (v : BitVec 32) : (s.initC32 v).cfg = s.cfg := rfl
@[simp] theorem initC32_c16Valid (v : BitVec 32) : (s.initC32 v).c16Valid = s.c16Valid := rfl
@[simp] theorem initC32_c16State (v : BitVec 32) : (s.initC32 v).c16State = s.c16State := rfl
@[simp] theorem initC32_c32Valid (v : BitVec 32) : (s.initC32 v).c32Valid = true := rfl
@[simp] theorem initC32_c32State (v : BitVec 32) : (s.initC32 v).c32State = v := rfl
@[simp] theorem initC32_rxdBuf (v : BitVec 32) : (s.initC32 v).rxdBuf = s.rxdBuf := rfl
@[simp] theorem initC32_rxdOvf (v : BitVec 32) : (s.initC32 v).rxdOvf = s.rxdOvf := rfl
@[simp] theorem initC32_freeCount (v : BitVec 32) : (s.initC32 v).freeCount = s.freeCount := rfl
@[simp] theorem initC32_input (v : BitVec 32) : (s.initC32 v).input = s.input := rfl
@[simp] theorem initC32_output (v : BitVec 32) : (s.initC32 v).output = s.output := rfl

/-! ### setC32 -/

@[simp] theorem setC32_cfg (v : BitVec 32) : (s.setC32 v).cfg = s.cfg := rfl
@[simp] theorem setC32_c16Valid (v : BitVec 32) : (s.setC32 v).c16Valid = s.c16Valid := rfl
@[simp] theorem setC32_c16State (v : BitVec 32) : (s.setC32 v).c16State = s.c16State := rfl
@[simp] theorem setC32_c32Valid (v : BitVec 32) : (s.setC32 v).c32Valid = s.c32Valid := rfl
@[simp] theorem setC32_c32State (v : BitVec 32) : (s.setC32 v).c32State = v := rfl
@[simp] theorem setC32_rxdBuf (v : BitVec 32) : (s.setC32 v).rxdBuf = s.rxdBuf := rfl
@[simp] theorem setC32_rxdOvf (v : BitVec 32) : (s.setC32 v).rxdOvf = s.rxdOvf := rfl
@[simp] theorem setC32_freeCount (v : BitVec 32) : (s.setC32 v).freeCount = s.freeCount := rfl
@[simp] theorem setC32_input (v : BitVec 32) : (s.setC32 v).input = s.input := rfl
@[simp] theorem setC32_output (v : BitVec 32) : (s.setC32 v).output = s.output := rfl

/-! ### storeByte -/

@[simp] theorem storeByte_cfg (b : Byte) : (s.storeByte b).cfg = s.cfg := rfl
@[simp] theorem storeByte_c16Valid (b : Byte) : (s.storeByte b).c16Valid = s.c16Valid := rfl
@[simp] theorem storeByte_c16State (b : Byte) : (s.storeByte b).c16State = s.c16State := rfl
@[simp] theorem storeByte_c32Valid (b : Byte) : (s.storeByte b).c32Valid = s.c32Valid := rfl
@[simp] theorem storeByte_c32State (b : Byte) : (s.storeByte b).c32State = s.c32State := rfl
@[simp] theorem storeByte_rxdBuf (b : Byte) : (s.storeByte b).rxdBuf = s.rxdBuf ++ [b] := rfl
@[simp] theorem storeByte_rxdOvf (b : Byte) : (s.storeByte b).rxdOvf = s.rxdOvf := rfl
@[simp] theorem storeByte_freeCount (b : Byte) : (s.storeByte b).freeCount = s.freeCount := rfl
@[simp] theorem storeByte_input (b : Byte) : (s.storeByte b).input = s.input := rfl
@[simp] theorem storeByte_output (b : Byte) : (s.storeByte b).output = s.output := rfl

/-! ### setOverflow -/

@[simp] theorem setOverflow_cfg : (s.setOverflow).cfg = s.cfg := rfl
@[simp] theorem setOverflow_c16Valid : (s.setOverflow).c16Valid = s.c16Valid := rfl
@[simp] theorem setOverflow_c16State : (s.setOverflow).c16State = s.c16State := rfl
@[simp] theorem setOverflow_c32Valid : (s.setOverflow).c32Valid = s.c32Valid := rfl
@[simp] theorem setOverflow_c32State : (s.setOverflow).c32State = s.c32State := rfl
@[simp] theorem setOverflow_rxdBuf : (s.setOverflow).rxdBuf = s.rxdBuf := rfl
@[simp] theorem setOverflow_rxdOvf : (s.setOverflow).rxdOvf = true := rfl
@[simp] theorem setOverflow_freeCount : (s.setOverflow).freeCount = s.freeCount := rfl
@[simp] theorem setOverflow_input : (s.setOverflow).input = s.input := rfl
@[simp] theorem setOverflow_output : (s.setOverflow).output = s.output := rfl

/-! ### clearChunk -/

@[simp] theorem clearChunk_cfg : (s.clearChunk).cfg = s.cfg := rfl
@[simp] theorem clearChunk_c16Valid : (s.clearChunk).c16Valid = s.c16Valid := rfl
@[simp] theorem clearChunk_c16State : (s.clearChunk).c16State = s.c16State := rfl
@[simp] theorem clearChunk_c32Valid : (s.clearChunk).c32Valid = s.c32Valid := rfl
@[simp] theorem clearChunk_c32State : (s.clearChunk).c32State = s.c32State := rfl
@[simp] theorem clearChunk_rxdBuf : (s.clearChunk).rxdBuf = [] := rfl
@[simp] theorem clearChunk_rxdOvf : (s.clearChunk).rxdOvf = false := rfl
@[simp] theorem clearChunk_freeCount : (s.clearChunk).freeCount = s.freeCount := rfl
@[simp] theorem clearChunk_input : (s.clearChunk).input = s.input := rfl
@[simp] theorem clearChunk_output : (s.clearChunk).output = s.output := rfl

/-! ### resetUnits -/

@[simp] theorem resetUnits_cfg : (s.resetUnits).cfg = s.cfg := rfl
@[simp] theorem resetUnits_c16Valid : (s.resetUnits).c16Valid = false := rfl
@[simp] theorem resetUnits_c16State : (s.resetUnits).c16State = Config.unspecified16 s.freeCount := rfl
@[simp] theorem resetUnits_c32Valid : (s.resetUnits).c32Valid = false := rfl
@[simp] theorem resetUnits_c32State : (s.resetUnits).c32State = Config.unspecified32 s.freeCount := rfl
@[simp] theorem resetUnits_rxdBuf : (s.resetUnits).rxdBuf = [] := rfl
@[simp] theorem resetUnits_rxdOvf : (s.resetUnits).rxdOvf = false := rfl
@[simp] theorem resetUnits_freeCount : (s.resetUnits).freeCount = s.freeCount + 1 := rfl
@[simp] theorem resetUnits_input : (s.resetUnits).input = s.input := rfl
@[simp] theorem resetUnits_output : (s.resetUnits).output = s.output := rfl

/-! ### Reset -/

@[simp] theorem resetWith_cfg (c : Config) : (resetWith c).cfg = c := rfl
@[simp] theorem resetWith_c16Valid (c : Config) : (resetWith c).c16Valid = false := rfl
@[simp] theorem resetWith_c32Valid (c : Config) : (resetWith c).c32Valid = false := rfl
@[simp] theorem resetWith_rxdBuf (c : Config) : (resetWith c).rxdBuf = [] := rfl
@[simp] theorem resetWith_rxdOvf (c : Config) : (resetWith c).rxdOvf = false := rfl
@[simp] theorem resetWith_input (c : Config) : (resetWith c).input = [] := rfl
@[simp] theorem resetWith_output (c : Config) : (resetWith c).output = [] := rfl

end Sys2Proof.Machine.State
end

