-- ==== Sys2Proof/Laws/Ops.lean ====
section
/-! SUPPORT. What each shared operation can do, said once. -/

namespace Sys2Proof.Machine

/-! ### Taking a command, answering -/

@[simp] theorem takeCommand_nil {s : State} (h : s.input = []) : takeCommand s = none := by
  simp [takeCommand, h]

@[simp] theorem takeCommand_cons {s : State} {p : List Byte} {rest : List (List Byte)} (h : s.input = p :: rest) :
    takeCommand s = some (p, { s with input := rest }) := by
  simp [takeCommand, h]

theorem respond_eq_next {st : Status} {data : List Byte} {s t : State} :
    respond st data s = .next t ↔ t = s.emit (responsePacket st data) := by
  simp [respond, eq_comm]

/-! ### Operand forms -/

theorem noOperand_iff {opd : List Byte} : noOperand opd = true ↔ opd = [] := by
  simp [noOperand]

theorem oneByte_eq_some {opd : List Byte} {b : Byte} : oneByte opd = some b ↔ opd = [b] := by
  match opd with
  | [] => simp [oneByte]
  | [a] => simp [oneByte]
  | _ :: _ :: _ => simp [oneByte]

theorem oneByte_eq_none {opd : List Byte} : oneByte opd = none ↔ opd.length ≠ 1 := by
  match opd with
  | [] => simp [oneByte]
  | [a] => simp [oneByte]
  | _ :: _ :: _ => simp [oneByte]

theorem idAndPayload_eq_some {c : Config} {opd payload : List Byte} {id : Byte} :
    idAndPayload c opd = some (id, payload) ↔ opd = id :: payload ∧ payload.length ≤ c.maxPayload.val := by
  cases opd with
  | nil => simp [idAndPayload]
  | cons a rest =>
    simp only [idAndPayload, Option.ite_none_right_eq_some, Option.some.injEq, Prod.mk.injEq, List.cons.injEq]
    constructor
    · rintro ⟨h, rfl, rfl⟩; exact ⟨⟨rfl, rfl⟩, h⟩
    · rintro ⟨⟨rfl, rfl⟩, h⟩; exact ⟨h, rfl, rfl⟩

theorem idAndPayload_eq_none {c : Config} {opd : List Byte} :
    idAndPayload c opd = none ↔ opd.length = 0 ∨ c.maxPayload.val + 1 < opd.length := by
  cases opd with
  | nil => simp [idAndPayload]
  | cons a rest => simp [idAndPayload]

/-! ### The engines -/

@[simp] theorem crcUpdate_nil {W : Nat} (P : CrcParams W) (s : BitVec W) : crcUpdate P s [] = s := rfl

@[simp] theorem crcUpdate_cons {W : Nat} (P : CrcParams W) (s : BitVec W) (b : Byte) (rest : List Byte) :
    crcUpdate P s (b :: rest) = crcUpdate P (crcByte P s b) rest := rfl

/-! ### The codec -/

@[simp] theorem codedBlock_length (blk : List Byte) : (codedBlock blk).length = blk.length + 1 := rfl

/-- `DecodeFrame` on a body with its terminator: the first check cannot fail (41_frame_codec.md R110). -/
theorem decodeFrame_append_terminator (c : Config) (body : List Byte) :
    decodeFrame c (body ++ [terminator]) =
      if terminator ∈ body then .formatError .embeddedTerminator
      else match unstuff c.stuffAlg body with
        | none => .formatError .badStuffing
        | some raw => checkRaw c raw := by
  simp only [decodeFrame, List.getLast?_concat, List.dropLast_concat, ne_eq, not_true_eq_false, if_false]
  all_goals (cases unstuff c.stuffAlg body <;> rfl)

/-- Every outcome of the checks on an unstuffed frame. -/
theorem checkRaw_cases (c : Config) (raw : List Byte) :
    (raw.length < 3 ∧ checkRaw c raw = .formatError .tooShort) ∨
    (rawMax c < raw.length ∧ 3 ≤ raw.length ∧ checkRaw c raw = .formatError .tooLong) ∨
    ∃ k0 k1 id payload, raw = k0 :: k1 :: id :: payload ∧ payload.length ≤ c.maxPayload.val ∧
      checkRaw c raw =
        if cksValue c.cksumOrder k0 k1 = frameChecksum c id payload
        then .frame ⟨id, payload, cksValue c.cksumOrder k0 k1⟩
        else .checksumError (cksValue c.cksumOrder k0 k1) (frameChecksum c id payload) := by
  match raw with
  | [] => exact .inl ⟨by simp, rfl⟩
  | [_] => exact .inl ⟨by simp, rfl⟩
  | [_, _] => exact .inl ⟨by simp, rfl⟩
  | k0 :: k1 :: id :: payload =>
    by_cases h : payload.length + 3 > rawMax c
    · exact .inr (.inl ⟨by simp only [List.length_cons]; omega, by simp, by simp [checkRaw, h]⟩)
    · refine .inr (.inr ⟨k0, k1, id, payload, rfl, ?_, ?_⟩)
      · simp only [rawMax] at h; omega
      · simp only [checkRaw, h, if_false, ne_eq, ite_not]

/-- The answer to a decode is one response on the state as it stands (R121, 43_stream_delimiter.md R181). -/
theorem respondDecode_eq (r : DecodeResult) (s : State) :
    respondDecode r s = .next (s.emit
      (match r with
        | .frame f => responsePacket .ok (rawFrame s.cfg f)
        | .formatError cause => responsePacket .formatError [cause.code]
        | .checksumError received computed => responsePacket .checksumError (le16 received ++ le16 computed))) := by
  cases r <;> rfl

/-! ### The delimiter -/

theorem chunkHasRoom_iff {s : State} : s.chunkHasRoom = true ↔ s.rxdBuf.length < rxCap s.cfg := by
  simp [State.chunkHasRoom]

theorem pushData_cases (b : Byte) (s : State) :
    (s.rxdBuf.length < rxCap s.cfg ∧ pushData b s = .next ((s.storeByte b).emit (responsePacket .pending []))) ∨
    (rxCap s.cfg ≤ s.rxdBuf.length ∧ pushData b s = .next (s.setOverflow.emit (responsePacket .pending []))) := by
  by_cases h : s.rxdBuf.length < rxCap s.cfg
  · exact .inl ⟨h, by simp [pushData, respond, State.chunkHasRoom, h]⟩
  · exact .inr ⟨by omega, by simp [pushData, respond, State.chunkHasRoom, h]⟩

/-- A terminator answers once and leaves the chunk cleared, nothing else changed (R181, 60_exceptions.md R223). -/
theorem pushTerminator_eq (s : State) :
    ∃ st data, pushTerminator s = .next (s.clearChunk.emit (responsePacket st data)) ∧
      st ∈ [Status.ok, .formatError, .checksumError] := by
  unfold pushTerminator
  split
  · exact ⟨.formatError, _, rfl, by simp⟩
  · rcases decodeFrame s.cfg (s.rxdBuf ++ [terminator]) with f | cause | ⟨received, computed⟩
    · exact ⟨.ok, _, rfl, by simp⟩
    · exact ⟨.formatError, _, rfl, by simp⟩
    · exact ⟨.checksumError, _, rfl, by simp⟩

/-! ### Every command -/

/-- The states a command can leave before its answer is appended: the state as it was, or one of the seven writes of
`Machine/Ops.lean`, each by its own command only. -/
inductive Effect (s : State) : Instr → State → Prop where
  | unchanged (i : Instr) : Effect s i s
  | reset : Effect s (.sysReset []) s.resetUnits
  | initC16 : Effect s (.c16Init []) (s.initC16 (crcInit s.cfg.p16))
  | updateC16 (opd : List Byte) : s.c16Valid = true →
      Effect s (.c16Update opd) (s.setC16 (crcUpdate s.cfg.p16 s.c16State opd))
  | initC32 : Effect s (.c32Init []) (s.initC32 (crcInit s.cfg.p32))
  | updateC32 (opd : List Byte) : s.c32Valid = true →
      Effect s (.c32Update opd) (s.setC32 (crcUpdate s.cfg.p32 s.c32State opd))
  | store (b : Byte) : b ≠ terminator → s.rxdBuf.length < rxCap s.cfg → Effect s (.rxdPush [b]) (s.storeByte b)
  | drop (b : Byte) : b ≠ terminator → rxCap s.cfg ≤ s.rxdBuf.length → Effect s (.rxdPush [b]) s.setOverflow
  | endChunk : Effect s (.rxdPush [terminator]) s.clearChunk
  | flush : Effect s (.rxdFlush []) s.clearChunk

/-- Every command answers exactly once, after one of its effects. -/
theorem exec_effect (i : Instr) (s : State) :
    ∃ s' st data, Effect s i s' ∧ exec i s = .next (s'.emit (responsePacket st data)) := by
  cases i with
  | sysNop opd =>
    refine ⟨s, ?_⟩
    by_cases h : noOperand opd <;> simp only [exec, execSysNop, badLength, respond, h, if_true]
    · exact ⟨_, _, .unchanged _, rfl⟩
    · exact ⟨_, _, .unchanged _, rfl⟩
  | sysReset opd =>
    by_cases h : noOperand opd <;> simp only [exec, execSysReset, badLength, respond, h, if_true]
    · obtain rfl := noOperand_iff.mp h
      exact ⟨_, _, _, .reset, rfl⟩
    · exact ⟨_, _, _, .unchanged _, rfl⟩
  | sysStatus opd =>
    by_cases h : noOperand opd <;> simp only [exec, execSysStatus, badLength, respond, h, if_true]
    · exact ⟨_, _, _, .unchanged _, rfl⟩
    · exact ⟨_, _, _, .unchanged _, rfl⟩
  | frmEncode opd =>
    simp only [exec, execFrmEncode]
    split
    · exact ⟨_, _, _, .unchanged _, rfl⟩
    · exact ⟨_, _, _, .unchanged _, rfl⟩
  | frmDecode opd =>
    simp only [exec, execFrmDecode]
    rcases decodeFrame s.cfg opd with f | cause | ⟨received, computed⟩
    · exact ⟨_, _, _, .unchanged _, rfl⟩
    · exact ⟨_, _, _, .unchanged _, rfl⟩
    · exact ⟨_, _, _, .unchanged _, rfl⟩
  | c16Init opd =>
    by_cases h : noOperand opd <;> simp only [exec, execC16Init, badLength, respond, h, if_true]
    · obtain rfl := noOperand_iff.mp h
      exact ⟨_, _, _, .initC16, rfl⟩
    · exact ⟨_, _, _, .unchanged _, rfl⟩
  | c16Update opd =>
    by_cases h : s.c16Valid <;> simp only [exec, execC16Update, notInit, respond, h, if_true]
    · exact ⟨_, _, _, .updateC16 opd h, rfl⟩
    · exact ⟨_, _, _, .unchanged _, rfl⟩
  | c16Final opd =>
    simp only [exec, execC16Final]
    split
    · split
      · exact ⟨_, _, _, .unchanged _, rfl⟩
      · exact ⟨_, _, _, .unchanged _, rfl⟩
    · exact ⟨_, _, _, .unchanged _, rfl⟩
  | c32Init opd =>
    by_cases h : noOperand opd <;> simp only [exec, execC32Init, badLength, respond, h, if_true]
    · obtain rfl := noOperand_iff.mp h
      exact ⟨_, _, _, .initC32, rfl⟩
    · exact ⟨_, _, _, .unchanged _, rfl⟩
  | c32Update opd =>
    by_cases h : s.c32Valid <;> simp only [exec, execC32Update, notInit, respond, h, if_true]
    · exact ⟨_, _, _, .updateC32 opd h, rfl⟩
    · exact ⟨_, _, _, .unchanged _, rfl⟩
  | c32Final opd =>
    simp only [exec, execC32Final]
    split
    · split
      · exact ⟨_, _, _, .unchanged _, rfl⟩
      · exact ⟨_, _, _, .unchanged _, rfl⟩
    · exact ⟨_, _, _, .unchanged _, rfl⟩
  | rxdPush opd =>
    simp only [exec, execRxdPush]
    split
    · rename_i b hb
      obtain rfl := oneByte_eq_some.mp hb
      by_cases h : b = terminator
      · subst h
        obtain ⟨st, data, he, -⟩ := pushTerminator_eq s
        simp only [ne_eq, not_true_eq_false, if_false]
        exact ⟨_, st, data, .endChunk, he⟩
      · simp only [ne_eq, h, not_false_eq_true, if_true]
        rcases pushData_cases b s with ⟨hr, he⟩ | ⟨hr, he⟩
        · exact ⟨_, _, _, .store b h hr, he⟩
        · exact ⟨_, _, _, .drop b h hr, he⟩
    · exact ⟨_, _, _, .unchanged _, rfl⟩
  | rxdFlush opd =>
    by_cases h : noOperand opd <;> simp only [exec, execRxdFlush, badLength, respond, h, if_true]
    · obtain rfl := noOperand_iff.mp h
      exact ⟨_, _, _, .flush, rfl⟩
    · exact ⟨_, _, _, .unchanged _, rfl⟩

/-! ### The step -/

/-- Every outcome of a step. -/
theorem step_cases (s : State) :
    (s.input = [] ∧ step s = .fault .noCommand) ∨
    ∃ p rest, s.input = p :: rest ∧
      step s = match decode p with
        | .command i => exec i { s with input := rest }
        | .illegalOp _ => .next ({ s with input := rest }.emit (responsePacket .illegalOp []))
        | .malformed => .refused .malformedPacket := by
  cases h : s.input with
  | nil => exact .inl ⟨rfl, by simp [step, takeCommand_nil h]⟩
  | cons p rest =>
    refine .inr ⟨p, rest, rfl, ?_⟩
    simp only [step, takeCommand_cons h]
    cases decode p <;> rfl

end Sys2Proof.Machine
end

