-- ==== Sys2Proof/Tests/Slice0.lean ====
section
/-! SUPPORT. Tests of one step or one pure function each, with results from 95_test_vectors.md or from the rules' worked
examples, and a witness for the hypotheses of every statement of Certificates/Slice0/Obligations.lean. -/

namespace Sys2Proof.Tests

open Sys2Proof Sys2Proof.Machine

/-! ### Helpers -/

/-- The last response packet of an outcome. -/
def answer : Host.Outcome State Fault Refusal → Option (List Byte)
  | .next s => s.output.getLast?
  | _ => none

/-- A part of the next state. -/
def next {α : Type} (f : State → α) : Host.Outcome State Fault Refusal → Option α
  | .next s => some (f s)
  | _ => none

def refusal : Host.Outcome State Fault Refusal → Option Refusal
  | .refused r => some r
  | _ => none

def fault : Host.Outcome State Fault Refusal → Option Fault
  | .fault r => some r
  | _ => none

/-- The reset state with one command packet waiting. -/
def loaded (p : List Byte) : State := { State.reset with input := [p] }

/-- Both engines in the middle of a message, three bytes in the chunk. -/
def busy : State :=
  { State.reset with
    c16Valid := true, c16State := 0xC8D1, c32Valid := true, c32State := 0x9B63D02C, rxdBuf := [0x04, 0xF1, 0xE1] }

/-- A block with `MaxPayload = 0`: `RawMax = 3`, `RxCap = 4`. -/
def tiny : Config := { defaultConfig with maxPayload := 0 }

/-- The tiny block with its chunk full. -/
def full : State := { State.resetWith tiny with rxdBuf := [0x55, 0x55, 0x55, 0x55] }

def reduced : Config := { defaultConfig with stuffAlg := .cobsr }

/-! ### Words written out from 30_encoding.md R70 and R74 -/

theorem test_decode_sys : decode [0x00, 0x00, 0x00] = .command (.sysNop []) ∧
    decode [0x01, 0x00, 0x00] = .command (.sysReset []) ∧
    decode [0x02, 0x00, 0x00] = .command (.sysStatus []) := by decide

theorem test_decode_frm :
    decode [0x10, 0x05, 0x00, 0x2A, 0x11, 0x22, 0x00, 0x33] = .command (.frmEncode [0x2A, 0x11, 0x22, 0x00, 0x33]) ∧
    decode [0x11, 0x04, 0x00, 0x05, 0x11, 0x22, 0x00] = .command (.frmDecode [0x05, 0x11, 0x22, 0x00]) := by decide

theorem test_decode_c16 : decode [0x20, 0x00, 0x00] = .command (.c16Init []) ∧
    decode [0x21, 0x02, 0x00, 0x32, 0x33] = .command (.c16Update [0x32, 0x33]) ∧
    decode [0x22, 0x01, 0x00, 0x55] = .command (.c16Final [0x55]) := by decide

theorem test_decode_c32 : decode [0x30, 0x00, 0x00] = .command (.c32Init []) ∧
    decode [0x31, 0x04, 0x00, 0x08, 0x09, 0x0A, 0x0B] = .command (.c32Update [0x08, 0x09, 0x0A, 0x0B]) ∧
    decode [0x32, 0x00, 0x00] = .command (.c32Final []) := by decide

theorem test_decode_rxd : decode [0x40, 0x01, 0x00, 0x04] = .command (.rxdPush [0x04]) ∧
    decode [0x41, 0x00, 0x00] = .command (.rxdFlush []) := by decide

/-- `LEN` is little-endian: 0x0100 operand bytes, not 1. -/
theorem test_decode_length_little_endian :
    decode (0x11 :: 0x00 :: 0x01 :: List.replicate 256 0x07) = .command (.frmDecode (List.replicate 256 0x07)) := by
  decide +kernel

theorem test_decode_reserved : decode [0x23, 0x01, 0x00, 0x55] = .illegalOp 0x23 ∧
    decode [0x03, 0x00, 0x00] = .illegalOp 0x03 ∧ decode [0xFF, 0x00, 0x00] = .illegalOp 0xFF := by decide

theorem test_decode_malformed : decode [0x22, 0x00] = .malformed ∧ decode [0x21, 0x02, 0x00, 0x31] = .malformed ∧
    decode [0x22, 0x00, 0x00, 0x55] = .malformed ∧ decode [] = .malformed := by decide

/-- R75, R79: no two rows of the opcode map select the same opcode, and exactly thirteen opcodes are selected. -/
theorem test_opcode_map_disjoint : opcodeTable.Pairwise (fun a b => a.value ≠ b.value) ∧
    ((List.range 256).filter fun k => (instrOf (BitVec.ofNat 8 k) []).isSome).length = 13 := by decide +kernel

theorem test_table_words : decodeTableWord 8 0x10 = some (.frmEncode []) ∧
    decodeTableWord 32 0x31000121 = some (.c16Update [0x31]) ∧ decodeTableWord 8 0x03 = none := by decide

theorem test_fetch_word_runs : answer (step (State.reset.withFetchWord 8 0x02)) = some [0x00, 0x03, 0x00, 0x00, 0x00, 0x00] := by
  decide

/-! ### WellFormed refuses what has no packet -/

theorem test_wellFormed_refuses_long_operand : (Instr.frmDecode (List.replicate 65536 0)).wellFormed = false := by
  decide +kernel

theorem test_wellFormed_boundary : (Instr.frmDecode (List.replicate 65535 0)).wellFormed = true := by
  decide +kernel

/-! ### Engines (42_crc_engines.md; 95_test_vectors.md sections 2.1 to 2.4) -/

/-- R142, the worked example of the byte step. -/
theorem test_crcByte_x25 : crcByte crc16X25 0xFFFF 0x31 = 0xB1F4 := by decide +kernel

/-- Section 2.4: the byte enters unreflected (CRC-16/CCITT-FALSE). -/
theorem test_crcByte_unreflected : crcByte (⟨0x1021, 0xFFFF, false, false, 0⟩ : CrcParams 16) 0xFFFF 0x31 = 0xC782 := by
  decide +kernel

/-- R147, R148, R150: check values of five catalogued parameter sets over "123456789". -/
theorem test_check_values :
    let m : List Byte := [0x31, 0x32, 0x33, 0x34, 0x35, 0x36, 0x37, 0x38, 0x39]
    crc crc16X25 m = 0x906E ∧ crc (⟨0x1021, 0xFFFF, false, false, 0⟩ : CrcParams 16) m = 0x29B1 ∧
      crc (⟨0x8005, 0xFFFF, true, true, 0⟩ : CrcParams 16) m = 0x4B37 ∧ crc crc32IsoHdlc m = 0xCBF43926 ∧
      crc (⟨0x04C11DB7, 0xFFFFFFFF, false, false, 0⟩ : CrcParams 32) m = 0x0376E6E7 := by decide +kernel

theorem test_c16Init : next (fun s => (s.c16Valid, s.c16State)) (exec (.c16Init []) State.reset) = some (true, 0xFFFF) := by
  decide

theorem test_c16Update : next (·.c16State) (exec (.c16Update [0x35]) busy) = some 0xFD22 := by decide +kernel

theorem test_c16Update_before_init : answer (exec (.c16Update []) State.reset) = some [0x82, 0x00, 0x00] := by decide

theorem test_c16Final : answer (exec (.c16Final []) busy) = some [0x00, 0x02, 0x00, 0xEC, 0x74] := by decide +kernel

/-- R224: BAD_LENGTH wins over NOT_INIT. -/
theorem test_c16Final_length_first : answer (exec (.c16Final [0x55]) State.reset) = some [0x81, 0x00, 0x00] := by decide

theorem test_c32Init : next (fun s => (s.c32Valid, s.c32State)) (exec (.c32Init []) State.reset) =
    some (true, 0xFFFFFFFF) := by decide

theorem test_c32Update : next (·.c32State) (exec (.c32Update [0x31]) { busy with c32State := 0xFFFFFFFF }) =
    some 0x1208C43E := by decide +kernel

/-- R151: all 32 bits. -/
theorem test_c32Final : answer (exec (.c32Final []) busy) = some [0x00, 0x04, 0x00, 0x26, 0x39, 0xF4, 0xCB] := by
  decide +kernel

theorem test_c32Final_before_init : answer (exec (.c32Final []) State.reset) = some [0x82, 0x00, 0x00] := by decide

/-! ### Frame codec (41_frame_codec.md; sections 3.1 to 3.4) -/

theorem test_stuff_corners : stuffCobs [] = [0x01] ∧ stuffCobs [0x00] = [0x01, 0x01] ∧
    stuffCobs [0x11, 0x00, 0x00, 0x22] = [0x02, 0x11, 0x01, 0x02, 0x22] := by decide

theorem test_stuff_full_block :
    stuffCobs (List.replicate 254 0x07) = 0xFF :: List.replicate 254 0x07 ++ [0x01] := by decide +kernel

theorem test_stuffR_corners : stuffCobsr [] = [0x01] ∧ stuffCobsr [0x01] = [0x02, 0x01] ∧ stuffCobsr [0x02] = [0x02] ∧
    stuffCobsr [0x05, 0x01] = [0x03, 0x05, 0x01] ∧ stuffCobsr [0x11, 0x00] = [0x02, 0x11, 0x01] ∧
    stuffCobsr [0x11, 0x22, 0x00, 0x33] = [0x03, 0x11, 0x22, 0x33] := by decide

theorem test_stuffR_full_block :
    stuffCobsr (List.replicate 254 0x07) = 0xFF :: List.replicate 254 0x07 ∧
    stuffCobsr (List.replicate 254 0x07 ++ [0xFF]) = 0xFF :: List.replicate 254 0x07 ++ [0xFF] := by decide +kernel

theorem test_unstuff_corners : unstuffCobs [] = some [] ∧ unstuffCobs [0x01, 0x01] = some [0x00] ∧
    unstuffCobs [0x05, 0x11, 0x22] = none ∧
    unstuffCobs (0xFF :: List.replicate 254 0x07) = some (List.replicate 254 0x07) := by decide +kernel

theorem test_unstuffR_corners : unstuffCobsr [0x01] = [] ∧ unstuffCobsr [0x02] = [0x02] ∧
    unstuffCobsr [0x03, 0x11] = [0x11, 0x03] ∧
    unstuffCobsr [0x03, 0x11, 0x22, 0x33] = [0x11, 0x22, 0x00, 0x33] := by decide

/-- Vector F4. -/
theorem test_frmEncode : answer (exec (.frmEncode [0x2A, 0x11, 0x22, 0x00, 0x33]) State.reset) =
    some [0x00, 0x09, 0x00, 0x06, 0xCF, 0x89, 0x2A, 0x11, 0x22, 0x02, 0x33, 0x00] := by decide +kernel

/-- Vector F6lo at COBS/R and with the checksum bytes exchanged. -/
theorem test_frmEncode_other_builds :
    encodeFrame reduced 0x01 [0x43] = [0x01, 0x43, 0x66, 0x01, 0x00] ∧
    encodeFrame { defaultConfig with cksumOrder := .be } 0x01 [0x43] = [0x02, 0x66, 0x03, 0x01, 0x43, 0x00] := by
  decide +kernel

/-- Section 3.4: one stream for each cause, and both outcomes of the checksum. -/
theorem test_decodeFrame_causes :
    decodeFrame defaultConfig [0x04, 0xF1, 0xE1, 0x01] = .formatError .noTerminator ∧
    decodeFrame defaultConfig [0x04, 0xF1, 0x00, 0x01, 0x00] = .formatError .embeddedTerminator ∧
    decodeFrame defaultConfig [0x05, 0x11, 0x22, 0x00] = .formatError .badStuffing ∧
    decodeFrame reduced [0x05, 0x11, 0x22, 0x00] = .checksumError 0x2211 0xA7D5 ∧
    decodeFrame defaultConfig [0x01, 0x01, 0x01, 0x00] = .formatError .tooShort ∧
    decodeFrame tiny [0x05, 0x11, 0x22, 0x33, 0x44, 0x00] = .formatError .tooLong ∧
    decodeFrame defaultConfig [0x04, 0xF1, 0xE1, 0x01, 0x00] = .frame ⟨0x01, [], 0xE1F1⟩ := by decide +kernel

theorem test_frmDecode_ok : answer (exec (.frmDecode [0x06, 0xCF, 0x89, 0x2A, 0x11, 0x22, 0x02, 0x33, 0x00]) State.reset) =
    some [0x00, 0x07, 0x00, 0xCF, 0x89, 0x2A, 0x11, 0x22, 0x00, 0x33] := by decide +kernel

theorem test_frmDecode_checksum :
    answer (exec (.frmDecode [0x06, 0xCF, 0x89, 0x2A, 0x11, 0x22, 0x02, 0x32, 0x00]) State.reset) =
      some [0x91, 0x04, 0x00, 0xCF, 0x89, 0x46, 0x98] := by decide +kernel

/-! ### Delimiter (43_stream_delimiter.md; section 4) -/

theorem test_rxdPush_data : next (fun s => (s.rxdBuf, s.rxdOvf)) (exec (.rxdPush [0x01]) busy) =
    some ([0x04, 0xF1, 0xE1, 0x01], false) := by decide

theorem test_rxdPush_terminator :
    answer (exec (.rxdPush [0x00]) { busy with rxdBuf := [0x04, 0xF1, 0xE1, 0x01] }) =
      some [0x00, 0x03, 0x00, 0xF1, 0xE1, 0x01] := by decide +kernel

theorem test_rxdPush_overflow : next (fun s => (s.rxdBuf.length, s.rxdOvf)) (exec (.rxdPush [0x55]) full) = some (4, true) ∧
    answer (exec (.rxdPush [0x00]) { full with rxdOvf := true }) = some [0x90, 0x01, 0x00, 0x06] := by decide

theorem test_rxdPush_empty_chunk : answer (exec (.rxdPush [0x00]) State.reset) = some [0x90, 0x01, 0x00, 0x04] := by
  decide

theorem test_rxdFlush : next (fun s => (s.rxdBuf, s.rxdOvf)) (exec (.rxdFlush []) { full with rxdOvf := true }) =
    some ([], false) := by decide

/-- R8 at the defaults. -/
theorem test_rxCap : rawMax defaultConfig = 258 ∧ rxCap defaultConfig = 260 := by decide

/-! ### System commands and packet-level errors (section 5) -/

theorem test_sysNop : answer (step (loaded [0x00, 0x00, 0x00])) = some [0x00, 0x00, 0x00] := by decide

theorem test_sysReset : next (fun s => (s.c16Valid, s.c32Valid, s.rxdBuf, s.rxdOvf)) (exec (.sysReset []) busy) =
    some (false, false, [], false) := by decide

theorem test_sysReset_with_operand : next (·.rxdBuf) (exec (.sysReset [0x00]) busy) = some [0x04, 0xF1, 0xE1] := by decide

theorem test_sysStatus : answer (exec (.sysStatus []) { busy with c32Valid := false }) =
    some [0x00, 0x03, 0x00, 0x01, 0x03, 0x00] := by decide

theorem test_step_reserved : answer (step (loaded [0x23, 0x01, 0x00, 0x55])) = some [0x80, 0x00, 0x00] := by decide

theorem test_step_malformed : refusal (step (loaded [0x22, 0x00])) = some .malformedPacket := by decide

theorem test_step_without_command : fault (step State.reset) = some .noCommand := by decide

/-! ### Witnesses for the hypotheses of the statements -/

theorem witness_DecodeOfEncodeIsTheCommand : (Instr.rxdPush [0x04]).wellFormed = true := by decide

theorem witness_EachCommandHasOnePacket : decode [0x40, 0x01, 0x00, 0x04] = .command (.rxdPush [0x04]) := by decide

/-- Both sides of the equivalence: a packet of three bytes, and a string one byte short. -/
theorem witness_OnlyWholePacketsAreCommands :
    (loaded [0x22, 0x00, 0x00]).input = [[0x22, 0x00, 0x00]] ∧ refusal (step (loaded [0x22, 0x00, 0x00])) = none ∧
    (loaded [0x22, 0x01, 0x00]).input = [[0x22, 0x01, 0x00]] ∧
    refusal (step (loaded [0x22, 0x01, 0x00])) = some .malformedPacket := by decide

/-- A reserved opcode at each end of the list of ranges, a length not accepted, a length accepted. -/
theorem witness_OpcodeThenLengthThenRule :
    loaded [0x03, 0x00, 0x00] = loaded (packetBytes 0x03 []) ∧ reservedOpcode 0x03 = true ∧
    reservedOpcode 0xFF = true ∧ reservedOpcode 0x02 = false ∧ reservedOpcode 0x41 = false ∧
    loaded [0x41, 0x01, 0x00, 0x07] = loaded (packetBytes 0x41 [0x07]) ∧
    lenAccepted defaultConfig (.rxdFlush [0x07]) = false ∧ lenAccepted defaultConfig (.rxdFlush []) = true ∧
    lenAccepted tiny (.frmEncode [0x01]) = true ∧ lenAccepted tiny (.frmEncode [0x01, 0x02]) = false := by decide

theorem witness_IllegalOpExactlyForReservedOpcodes :
    (loaded [0x42, 0x00, 0x00]).input = [packetBytes 0x42 []] ∧ reservedOpcode 0x42 = true ∧
    answer (step (loaded [0x42, 0x00, 0x00])) = some [0x80, 0x00, 0x00] := by decide

theorem witness_StepRunsTheDecodedCommand :
    (loaded [0x22, 0x00, 0x00]).input = [[0x22, 0x00, 0x00]] ∧ decode [0x22, 0x00, 0x00] = .command (.c16Final []) := by
  decide

theorem witness_StepStopsOnlyWithoutAPacket : State.reset.input = [] ∧
    (loaded [0x22]).input = [[0x22]] ∧ decode [0x22] = .malformed := by decide

theorem witness_EveryPacketGetsOneResponse :
    (loaded [0x23, 0x00, 0x00]).input = [[0x23, 0x00, 0x00]] ∧ decode [0x23, 0x00, 0x00] ≠ .malformed ∧
    decode [0x02, 0x00, 0x00] ≠ .malformed := by decide

theorem witness_ErrorsAreThoseOfTheTable : answer (exec (.c16Final []) State.reset) = some (responsePacket .notInit []) ∧
    Status.notInit.isError = true ∧ Status.pending.isError = false := by decide

/-- The invariant holds of a full chunk and of an overflowed one, and both can step. -/
theorem witness_StepKeepsTheDelimiterInvariant : full.Inv ∧ { full with rxdOvf := true }.Inv ∧
    (next (·.rxdOvf) (step { full with input := [[0x40, 0x01, 0x00, 0x55]] })) = some true := by decide

/-- Two different states that look the same, and a step of one. -/
theorem witness_UnspecifiedRegistersCannotBeObserved :
    (loaded [0x02, 0x00, 0x00]).SameSeen { loaded [0x02, 0x00, 0x00] with c16State := 0x1234, freeCount := 7 } ∧
    answer (step (loaded [0x02, 0x00, 0x00])) = some [0x00, 0x03, 0x00, 0x00, 0x00, 0x00] := by decide

theorem witness_ValidBitsChangeOnlyByInitAndReset :
    next (·.c16Valid) (exec (.c16Init []) State.reset) = some true ∧ next (·.c32Valid) (exec (.sysReset []) busy) = some false ∧
    next (·.c32Valid) (exec (.c32Final []) busy) = some true := by decide

/-- Each case of the statement at the boundary: full and one below, terminator, flush, reset, another command. -/
theorem witness_OverflowBitChangesOnlyAsListed : full.rxdBuf.length = rxCap full.cfg ∧
    next (·.rxdOvf) (exec (.rxdPush [0x01]) full) = some true ∧
    next (·.rxdOvf) (exec (.rxdPush [0x01]) { full with rxdBuf := [0x55, 0x55, 0x55] }) = some false ∧
    next (·.rxdOvf) (exec (.rxdPush [terminator]) { full with rxdOvf := true }) = some false ∧
    next (·.rxdOvf) (exec (.rxdFlush []) { full with rxdOvf := true }) = some false ∧
    next (·.rxdOvf) (exec (.sysReset []) { full with rxdOvf := true }) = some false ∧
    next (·.rxdOvf) (exec (.sysNop []) { full with rxdOvf := true }) = some true := by decide

theorem witness_EnginesAreIndependent : Instr.c16Update [0x31] ∈ [Instr.c16Init [0x31], .c16Update [0x31], .c16Final [0x31]] ∧
    next (·.c32State) (exec (.c16Update [0x31]) busy) = some 0x9B63D02C := by decide

theorem witness_CodecReadsAndWritesNoState : busy.cfg = State.reset.cfg ∧ busy ≠ State.reset ∧
    Instr.frmDecode [0x00] ∈ [Instr.frmEncode [0x00], .frmDecode [0x00]] := by decide

/-- Each clause: the valid bits with UPDATE, the running registers with RXD.PUSH, the chunk with FINAL. -/
theorem witness_ElementsChangeOnlyByTheirWriters :
    next (·.c16Valid) (exec (.c16Update [0x31]) busy) = some busy.c16Valid ∧
    next (·.c16State) (exec (.rxdPush [0x31]) busy) = some 0xC8D1 ∧
    (∀ opd, Instr.c16Update [0x31] ≠ .c16Init opd ∧ Instr.c16Update [0x31] ≠ .sysReset opd) ∧
    (∀ opd, Instr.c32Update [0x31] ≠ .c32Init opd ∧ Instr.c32Update [0x31] ≠ .sysReset opd) ∧
    (∀ opd, Instr.rxdPush [0x31] ≠ .c16Init opd ∧ Instr.rxdPush [0x31] ≠ .c16Update opd ∧
      Instr.rxdPush [0x31] ≠ .sysReset opd) ∧
    (∀ opd, Instr.rxdPush [0x31] ≠ .c32Init opd ∧ Instr.rxdPush [0x31] ≠ .c32Update opd ∧
      Instr.rxdPush [0x31] ≠ .sysReset opd) ∧
    (∀ opd, Instr.c16Final [] ≠ .rxdPush opd ∧ Instr.c16Final [] ≠ .rxdFlush opd ∧ Instr.c16Final [] ≠ .sysReset opd) := by
  refine ⟨by decide, by decide, ?_, ?_, ?_, ?_, ?_⟩ <;> intro opd <;> simp

/-- Each clause: BAD_LENGTH, NOT_INIT, a decode error of each command, a reserved opcode. -/
theorem witness_ErrorsChangeNothingButTheChunk :
    next (·.output) (exec (.sysReset [0x00]) busy) = some (busy.output ++ [responsePacket .badLength []]) ∧
    next (·.output) (exec (.c32Final []) State.reset) = some (State.reset.output ++ [responsePacket .notInit []]) ∧
    next (·.output) (exec (.frmDecode []) busy) = some (busy.output ++ [responsePacket .formatError [0x01]]) ∧
    next (·.output) (exec (.rxdPush [terminator]) busy) = some (busy.output ++ [responsePacket .formatError [0x03]]) ∧
    (loaded [0x23, 0x00, 0x00]).input = [[0x23, 0x00, 0x00]] ∧ decode [0x23, 0x00, 0x00] = .illegalOp 0x23 := by decide

/-- LEN = 0 and LEN = 1: the two hypotheses of the statements on commands without an operand. -/
theorem witness_no_operand : ([] : List Byte).length = 0 ∧ ([0x55] : List Byte).length ≠ 0 := by decide

theorem witness_SysStatusShowsFlagsAndLength : full.Inv ∧ full.rxdBuf.length = 4 ∧
    answer (exec (.sysStatus []) { full with rxdOvf := true }) = some [0x00, 0x03, 0x00, 0x04, 0x04, 0x00] := by decide

/-- Each clause at its boundary, at `MaxPayload = 0`: LEN = 0, LEN = 2, LEN = 1. -/
theorem witness_FrmEncodeAnswersTheStream : ([] : List Byte).length = 0 ∧
    tiny.maxPayload.val + 1 < ([0x01, 0x02] : List Byte).length ∧ ([0x01] : List Byte).length ≤ tiny.maxPayload.val + 1 := by
  decide

theorem witness_FrmDecodeUndoesFrmEncode : State.reset.cfg = busy.cfg ∧
    ([0x11] : List Byte).length ≤ State.reset.cfg.maxPayload.val := by decide

/-- Each combination of operand and valid bit that a clause asks for. -/
theorem witness_engine_commands : State.reset.c16Valid = false ∧ State.reset.c32Valid = false ∧ busy.c16Valid = true ∧
    busy.c32Valid = true := by decide

theorem witness_InterleavedCommandsKeepTheC16Message : busy.c16Valid = true ∧
    ∀ i ∈ [Instr.c32Init [], .c16Update [0x31], .rxdPush [0x00]], i ≠ .c16Init [] ∧ i ≠ .sysReset [] := by decide

theorem witness_InterleavedCommandsKeepTheC32Message : busy.c32Valid = true ∧
    ∀ i ∈ [Instr.c16Init [], .c32Update [0x31], .frmEncode []], i ≠ .c32Init [] ∧ i ≠ .sysReset [] := by decide

/-- Each clause: LEN 0 and 2; a data byte with one place left and with none; a terminator with and without overflow; a
chunk that meets the invariant. -/
theorem witness_RxdPushFollowsItsRule : ([] : List Byte).length ≠ 1 ∧ ([0x01, 0x02] : List Byte).length ≠ 1 ∧
    (0x01 : Byte) ≠ terminator ∧ { full with rxdBuf := [0x55, 0x55, 0x55] }.rxdBuf.length < rxCap tiny ∧
    ¬ full.rxdBuf.length < rxCap full.cfg ∧ { full with rxdOvf := true }.rxdOvf = true ∧ full.rxdOvf = false ∧
    full.Inv := by decide

theorem witness_BoundedBufferIsInvisibleInStatuses : State.reset.rxdBuf = [] ∧ State.reset.rxdOvf = false ∧
    (unboundedFeed tiny [] [0x01, 0x01, 0x01, 0x01, 0x01, 0x00]).getLast? = some ⟨.formatError, [0x05], 5⟩ := by
  decide +kernel

theorem witness_DelimiterResynchronises : terminator ∉ ([0x22, 0x02, 0x33] : List Byte) ∧ terminator ∉ ([] : List Byte) ∧
    (∀ m ∈ [((0x2A : Byte), ([0x11, 0x22, 0x00, 0x33] : List Byte)), (0x01, [])], m.2.length ≤ State.reset.cfg.maxPayload.val) ∧
    State.reset.rxdBuf = [] ∧ State.reset.rxdOvf = false := by decide

theorem witness_DecodeOfEncodeIsTheFrame : ([] : List Byte).length ≤ tiny.maxPayload.val ∧
    (List.replicate 255 (0x00 : Byte)).length ≤ defaultConfig.maxPayload.val := by decide +kernel

theorem witness_EncodedStreamHasOneTerminator : 3 + 1 < (encodeFrame defaultConfig 0x01 []).length := by decide +kernel

/-- A sequence without a run of 254 non-zero bytes, one without a zero byte, and a COBS build. -/
theorem witness_CobsLengthBounds :
    (∀ before run after : List Byte, [0x11, 0x22] = before ++ run ++ after → 254 ≤ run.length → terminator ∈ run) ∧
    terminator ∉ List.replicate 254 (0x07 : Byte) ∧ defaultConfig.stuffAlg = .cobs ∧
    ([] : List Byte).length ≤ defaultConfig.maxPayload.val := by
  refine ⟨?_, by decide +kernel, rfl, by decide⟩
  intro before run after h hrun
  have := congrArg List.length h
  simp only [List.length_append, List.length_cons, List.length_nil] at this
  omega

/-- Both clauses: a body that unstuffs (at each instance), and a body one byte longer than `RxCap`. -/
theorem witness_LongBodiesNeverDecode : terminator ∉ ([0x02, 0x11] : List Byte) ∧
    unstuff .cobs [0x02, 0x11] = some [0x11] ∧ unstuff .cobsr [0x02, 0x11] = some [0x11] ∧
    terminator ∉ ([0x01, 0x01, 0x01, 0x01, 0x01] : List Byte) ∧
    rxCap tiny < ([0x01, 0x01, 0x01, 0x01, 0x01] : List Byte).length := by decide

theorem witness_CobsrExtendsCobs : terminator ∉ ([0x03, 0x11, 0x22] : List Byte) ∧
    unstuffCobs [0x03, 0x11, 0x22] = some [0x11, 0x22] := by decide

/-- One stream for each clause: no terminator, a terminator inside, bad stuffing, two raw bytes, one raw byte too many,
and three raw bytes with a wrong and with the right checksum. -/
theorem witness_DecodeReportsTheFirstFailingCheck :
    ([0x04] : List Byte) = [] ++ [0x04] ∧ (0x04 : Byte) ≠ terminator ∧ terminator ∈ ([0x01, 0x00] : List Byte) ∧
    terminator ∉ ([0x05, 0x11] : List Byte) ∧ unstuff defaultConfig.stuffAlg [0x05, 0x11] = none ∧
    unstuff defaultConfig.stuffAlg [0x03, 0x11, 0x22] = some [0x11, 0x22] ∧
    unstuff tiny.stuffAlg [0x05, 0x11, 0x22, 0x33, 0x44] = some [0x11, 0x22, 0x33, 0x44] ∧
    tiny.maxPayload.val + 3 < ([0x11, 0x22, 0x33, 0x44] : List Byte).length ∧
    unstuff tiny.stuffAlg [0x04, 0xF1, 0xE1, 0x01] = some [0xF1, 0xE1, 0x01] ∧
    cksValue tiny.cksumOrder 0xF1 0xE1 = crc tiny.p16 [0x01] ∧ cksValue tiny.cksumOrder 0xF0 0xE1 ≠ crc tiny.p16 [0x01] := by
  decide +kernel

theorem witness_AcceptedStreamsAreFrames :
    decodeFrame defaultConfig [0x04, 0xF1, 0xE1, 0x01, 0x00] = .frame ⟨0x01, [], 0xE1F1⟩ := by decide +kernel

theorem witness_StreamsAreSelfDelimiting :
    encodeMessage defaultConfig (0x01, []) = [0x04, 0xF1] ++ [0xE1, 0x01, 0x00] ∧ ([0xE1, 0x01, 0x00] : List Byte) ≠ [] := by
  decide +kernel

theorem witness_ReflectedCrcIsEquivalent : 8 ≤ 16 ∧ crc16X25.refin = true ∧ crc16X25.refout = true ∧
    crc32IsoHdlc.refin = true ∧ crc32IsoHdlc.refout = true := by decide

theorem witness_ReflectMovesEachBit : 7 < 8 ∧ (reflect (0x31 : BitVec 8)).getLsbD 7 = (0x31 : BitVec 8).getLsbD 0 := by decide

end Sys2Proof.Tests
end

/-! Proofs of the statements of 00_scope.md: when a step stops and what it runs (R15), bit reflection (R11), the byte
packings and their inverses (R12). -/

namespace Sys2Proof.Machine

/-! ### The step, by what the next byte string decodes to (R15; 30_encoding.md R71, R78) -/

section
variable {s : State} {p : List Byte} {rest : List (List Byte)}

theorem step_of_input_nil (hin : s.input = []) : step s = .fault .noCommand := by
  simp only [step, takeCommand_nil hin]

theorem step_of_decode_command {i : Instr} (hin : s.input = p :: rest) (hdec : decode p = .command i) :
    step s = exec i { s with input := rest } := by
  simp only [step, takeCommand_cons hin, hdec]

theorem step_of_decode_illegalOp {opc : Byte} (hin : s.input = p :: rest) (hdec : decode p = .illegalOp opc) :
    step s = illegalOp { s with input := rest } := by
  simp only [step, takeCommand_cons hin, hdec]

theorem step_of_decode_malformed (hin : s.input = p :: rest) (hdec : decode p = .malformed) :
    step s = .refused .malformedPacket := by
  simp only [step, takeCommand_cons hin, hdec]

end

/-- No command stops the block: errors are responses (60_exceptions.md R222). -/
theorem exec_completes (i : Instr) (s : State) : ∃ t, exec i s = .next t := by
  obtain ⟨s', st, data, -, hexec⟩ := exec_effect i s
  exact ⟨_, hexec⟩

/-- A waiting byte string that is a packet, its opcode reserved or not, is answered (60_exceptions.md R225). -/
theorem step_completes_of_packet {s : State} {p : List Byte} {rest : List (List Byte)} (hin : s.input = p :: rest)
    (hpacket : decode p ≠ .malformed) : ∃ t, step s = .next t := by
  cases hdec : decode p with
  | command i => exact step_of_decode_command hin hdec ▸ exec_completes i _
  | illegalOp opc => exact ⟨_, step_of_decode_illegalOp hin hdec⟩
  | malformed => exact absurd hdec hpacket

/-- The three ways a step can end: no command waits, the next byte string is no packet, or the step completes. -/
theorem step_stops_or_completes (s : State) :
    (s.input = [] ∧ step s = .fault .noCommand) ∨
    (∃ p rest, s.input = p :: rest ∧ decode p = .malformed ∧ step s = .refused .malformedPacket) ∨
    (∃ p rest, s.input = p :: rest ∧ decode p ≠ .malformed ∧ ∃ t, step s = .next t) := by
  cases hin : s.input with
  | nil => exact .inl ⟨rfl, step_of_input_nil hin⟩
  | cons p rest =>
    by_cases hdec : decode p = .malformed
    · exact .inr (.inl ⟨p, rest, rfl, hdec, step_of_decode_malformed hin hdec⟩)
    · exact .inr (.inr ⟨p, rest, rfl, hdec, step_completes_of_packet hin hdec⟩)

theorem step_eq_fault_iff {s : State} {f : Fault} : step s = .fault f ↔ f = .noCommand ∧ s.input = [] := by
  rcases step_stops_or_completes s with ⟨hin, hstep⟩ | ⟨p, rest, hin, -, hstep⟩ | ⟨p, rest, hin, -, t, hstep⟩
  · simp [hstep, hin]
  · simp [hstep, hin]
  · simp [hstep, hin]

theorem step_eq_refused_iff {s : State} {r : Refusal} :
    step s = .refused r ↔ r = .malformedPacket ∧ ∃ p rest, s.input = p :: rest ∧ decode p = .malformed := by
  rcases step_stops_or_completes s with ⟨hin, hstep⟩ | ⟨p, rest, hin, hdec, hstep⟩ | ⟨p, rest, hin, hdec, t, hstep⟩
  · simp [hstep, hin]
  · simp [hstep, hin, hdec, eq_comm]
  · simp [hstep, hin, hdec]

/-- Settles O8: of the three ways a step can end, each stop is one. -/
theorem stepStopsOnlyWithoutAPacket : Obligations.StepStopsOnlyWithoutAPacket :=
  ⟨fun _ _ => step_eq_fault_iff, fun _ _ => step_eq_refused_iff⟩

/-- Settles O7: the rule of the step for a packet that decodes to a command. -/
theorem stepRunsTheDecodedCommand : Obligations.StepRunsTheDecodedCommand :=
  fun _ _ _ _ hin hdec => step_of_decode_command hin hdec

/-! ### Bit reflection (R11) -/

theorem getLsbD_reflect {W : Nat} (v : BitVec W) {i : Nat} (hi : i < W) :
    (reflect v).getLsbD i = v.getLsbD (W - 1 - i) := by
  rw [reflect, BitVec.getLsbD_reverse, BitVec.getMsbD_eq_getLsbD, decide_eq_true hi, Bool.true_and]

/-- Settles O48: the bit law for every width; the rule's three examples are evaluated. -/
theorem reflectMovesEachBit : Obligations.ReflectMovesEachBit :=
  ⟨fun _ v _ hi => getLsbD_reflect v hi, by decide, by decide, by decide +kernel⟩

end Sys2Proof.Machine

/-! ### Packings (R12) -/

namespace Sys2Proof

/-- The byte of a number that starts at bit `n`. -/
theorem toNat_extractByte {W : Nat} (v : BitVec W) (n : Nat) :
    (v.extractLsb' n 8).toNat = v.toNat / 2 ^ n % 256 := by
  rw [BitVec.extractLsb'_toNat, Nat.shiftRight_eq_div_pow]

theorem be16_eq_reverse_le16 (v : BitVec 16) : be16 v = (le16 v).reverse := rfl

theorem le16_unle16 (a b : Byte) : le16 (unle16 a b) = [a, b] := by
  rw [le16, unle16, BitVec.extractLsb'_append_eq_right, BitVec.extractLsb'_append_eq_left]

theorem be16_unle16 (a b : Byte) : be16 (unle16 a b) = [b, a] := by
  rw [be16_eq_reverse_le16, le16_unle16]
  rfl

/-- The two bytes that `le16` lists put the value together again. -/
theorem unle16_extractBytes (v : BitVec 16) : unle16 (v.extractLsb' 0 8) (v.extractLsb' 8 8) = v :=
  BitVec.extractLsb'_append_extractLsb'

theorem le32_bytes_sum (v : BitVec 32) :
    v.toNat = (v.extractLsb' 0 8).toNat + 256 * (v.extractLsb' 8 8).toNat + 65536 * (v.extractLsb' 16 8).toNat +
      16777216 * (v.extractLsb' 24 8).toNat := by
  have hv := v.isLt
  simp only [toNat_extractByte]
  omega

theorem le16_bytes (v : BitVec 16) : ∃ lo hi : Byte, le16 v = [lo, hi] ∧ be16 v = [hi, lo] ∧
    lo.toNat = v.toNat % 256 ∧ hi.toNat = v.toNat / 256 ∧ unle16 lo hi = v := by
  have hv := v.isLt
  refine ⟨v.extractLsb' 0 8, v.extractLsb' 8 8, rfl, rfl, ?_, ?_, unle16_extractBytes v⟩
  · rw [toNat_extractByte, pow_zero, Nat.div_one]
  · rw [toNat_extractByte]
    omega

/-- `cks_value` is the inverse of `cks_bytes`, in either order. -/
theorem Machine.cksValue_cksBytes (o : CksumOrder) (v : BitVec 16) :
    ∃ k0 k1 : Byte, Machine.cksBytes o v = [k0, k1] ∧ Machine.cksValue o k0 k1 = v := by
  cases o with
  | le => exact ⟨_, _, rfl, unle16_extractBytes v⟩
  | be => exact ⟨_, _, rfl, unle16_extractBytes v⟩

/-- Settles O49: the bytes of each packing are bit slices, which append to the value and whose numbers sum to it. -/
theorem packingsAreLittleEndianAndInvertible : Obligations.PackingsAreLittleEndianAndInvertible := by
  refine ⟨fun a b => ⟨unle16_toNat a b, le16_unle16 a b, be16_unle16 a b⟩, le16_bytes, fun o v => ?_,
    fun v => ⟨_, _, _, _, rfl, le32_bytes_sum v⟩⟩
  obtain ⟨k0, k1, hbytes, hvalue⟩ := Machine.cksValue_cksBytes o v
  exact ⟨k0, k1, hbytes, hvalue, fun h => h ▸ rfl, fun h => h ▸ rfl⟩

end Sys2Proof

/-! Proofs of the statements of 10_state.md: who writes and who reads each element (R20, R24, R25, R28, R29), the
delimiter's invariants (R30), what an unspecified running register can show (R27), and messages with other commands in
between (R26). -/

namespace Sys2Proof.Machine

/-! ### What a command that completes did -/

theorem next_unique {o : Host.Outcome State Fault Refusal} {s t : State} (hs : o = .next s) (ht : o = .next t) :
    s = t :=
  Host.Outcome.next.inj (hs.symm.trans ht)

/-- A command that completes has had one of its effects and has appended one response. -/
theorem effect_of_exec {i : Instr} {s t : State} (h : exec i s = .next t) :
    ∃ s' st data, Effect s i s' ∧ t = s'.emit (responsePacket st data) := by
  obtain ⟨s', st, data, heff, hexec⟩ := exec_effect i s
  exact ⟨s', st, data, heff, next_unique h hexec⟩

/-- A step that completes has taken one packet, and either executed its command or refused its reserved opcode. -/
theorem step_eq_next_cases {s t : State} (h : step s = .next t) :
    ∃ p rest, s.input = p :: rest ∧
      ((∃ i, decode p = .command i ∧ exec i { s with input := rest } = .next t) ∨
        ∃ opc, decode p = .illegalOp opc ∧ illegalOp { s with input := rest } = .next t) := by
  cases hin : s.input with
  | nil => simp [step_of_input_nil hin] at h
  | cons p rest =>
    refine ⟨p, rest, rfl, ?_⟩
    cases hdec : decode p with
    | command i => exact .inl ⟨i, rfl, step_of_decode_command hin hdec ▸ h⟩
    | illegalOp opc => exact .inr ⟨opc, rfl, step_of_decode_illegalOp hin hdec ▸ h⟩
    | malformed => simp [step_of_decode_malformed hin hdec] at h

/-! ### The forms that write, each by its own rule -/

theorem exec_sysReset_nil (s : State) :
    exec (.sysReset []) s = .next (s.resetUnits.emit (responsePacket .ok [])) := rfl

theorem exec_c16Init_nil (s : State) :
    exec (.c16Init []) s = .next ((s.initC16 (crcInit s.cfg.p16)).emit (responsePacket .ok [])) := rfl

theorem exec_c32Init_nil (s : State) :
    exec (.c32Init []) s = .next ((s.initC32 (crcInit s.cfg.p32)).emit (responsePacket .ok [])) := rfl

theorem exec_rxdFlush_nil (s : State) :
    exec (.rxdFlush []) s = .next (s.clearChunk.emit (responsePacket .ok [])) := rfl

theorem exec_c16Update_of_valid {s : State} (hv : s.c16Valid = true) (opd : List Byte) :
    exec (.c16Update opd) s =
      .next ((s.setC16 (crcUpdate s.cfg.p16 s.c16State opd)).emit (responsePacket .ok [])) := by
  rw [exec, execC16Update, if_pos hv, respond]

theorem exec_c32Update_of_valid {s : State} (hv : s.c32Valid = true) (opd : List Byte) :
    exec (.c32Update opd) s =
      .next ((s.setC32 (crcUpdate s.cfg.p32 s.c32State opd)).emit (responsePacket .ok [])) := by
  rw [exec, execC32Update, if_pos hv, respond]

theorem exec_rxdPush_terminator (s : State) : exec (.rxdPush [terminator]) s = pushTerminator s := rfl

theorem exec_rxdPush_data {b : Byte} (hb : b ≠ terminator) (s : State) :
    exec (.rxdPush [b]) s = pushData b s := if_pos hb

/-! ### What an effect leaves unchanged (R20) -/

namespace Effect

variable {s s' : State} {i : Instr}

theorem cfg_eq (h : Effect s i s') : s'.cfg = s.cfg := by cases h <;> rfl

theorem input_eq (h : Effect s i s') : s'.input = s.input := by cases h <;> rfl

theorem c16Valid_eq (h : Effect s i s') (hinit : i ≠ .c16Init []) (hreset : i ≠ .sysReset []) :
    s'.c16Valid = s.c16Valid := by
  cases h with
  | initC16 => exact absurd rfl hinit
  | reset => exact absurd rfl hreset
  | _ => rfl

theorem c32Valid_eq (h : Effect s i s') (hinit : i ≠ .c32Init []) (hreset : i ≠ .sysReset []) :
    s'.c32Valid = s.c32Valid := by
  cases h with
  | initC32 => exact absurd rfl hinit
  | reset => exact absurd rfl hreset
  | _ => rfl

theorem c16State_eq (h : Effect s i s') (hinit : i ≠ .c16Init []) (hupdate : ∀ opd, i ≠ .c16Update opd)
    (hreset : i ≠ .sysReset []) : s'.c16State = s.c16State := by
  cases h with
  | initC16 => exact absurd rfl hinit
  | updateC16 opd => exact absurd rfl (hupdate opd)
  | reset => exact absurd rfl hreset
  | _ => rfl

theorem c32State_eq (h : Effect s i s') (hinit : i ≠ .c32Init []) (hupdate : ∀ opd, i ≠ .c32Update opd)
    (hreset : i ≠ .sysReset []) : s'.c32State = s.c32State := by
  cases h with
  | initC32 => exact absurd rfl hinit
  | updateC32 opd => exact absurd rfl (hupdate opd)
  | reset => exact absurd rfl hreset
  | _ => rfl

theorem chunk_eq (h : Effect s i s') (hpush : ∀ b, i ≠ .rxdPush [b]) (hflush : i ≠ .rxdFlush [])
    (hreset : i ≠ .sysReset []) : s'.rxdBuf = s.rxdBuf ∧ s'.rxdOvf = s.rxdOvf := by
  cases h with
  | store b => exact absurd rfl (hpush b)
  | drop b => exact absurd rfl (hpush b)
  | endChunk => exact absurd rfl (hpush terminator)
  | flush => exact absurd rfl hflush
  | reset => exact absurd rfl hreset
  | _ => exact ⟨rfl, rfl⟩

end Effect

/-- Settles O18: a write of an element belongs to one of the effects of its writers. -/
theorem elementsChangeOnlyByTheirWriters : Obligations.ElementsChangeOnlyByTheirWriters := by
  intro i s t h
  obtain ⟨s', st, data, heff, rfl⟩ := effect_of_exec h
  exact ⟨heff.cfg_eq, heff.input_eq,
    fun hw => heff.c16Valid_eq (hw []).1 (hw []).2,
    fun hw => heff.c16State_eq (hw []).1 (fun opd => (hw opd).2.1) (hw []).2.2,
    fun hw => heff.c32Valid_eq (hw []).1 (hw []).2,
    fun hw => heff.c32State_eq (hw []).1 (fun opd => (hw opd).2.1) (hw []).2.2,
    fun hw => heff.chunk_eq (fun b => (hw [b]).1) (hw []).2.1 (hw []).2.2⟩

/-! ### The valid bits (R24) -/

theorem c16Valid_of_exec {i : Instr} {s t : State} (h : exec i s = .next t) :
    t.c16Valid = if i = .c16Init [] then true else if i = .sysReset [] then false else s.c16Valid := by
  split_ifs with hinit hreset
  · subst hinit
    obtain rfl := next_unique (exec_c16Init_nil s) h
    rfl
  · subst hreset
    obtain rfl := next_unique (exec_sysReset_nil s) h
    rfl
  · obtain ⟨s', st, data, heff, rfl⟩ := effect_of_exec h
    exact heff.c16Valid_eq hinit hreset

theorem c32Valid_of_exec {i : Instr} {s t : State} (h : exec i s = .next t) :
    t.c32Valid = if i = .c32Init [] then true else if i = .sysReset [] then false else s.c32Valid := by
  split_ifs with hinit hreset
  · subst hinit
    obtain rfl := next_unique (exec_c32Init_nil s) h
    rfl
  · subst hreset
    obtain rfl := next_unique (exec_sysReset_nil s) h
    rfl
  · obtain ⟨s', st, data, heff, rfl⟩ := effect_of_exec h
    exact heff.c32Valid_eq hinit hreset

/-- Settles O14: INIT and SYS.RESET by their own rules, every other form by the frame of its effect. -/
theorem validBitsChangeOnlyByInitAndReset : Obligations.ValidBitsChangeOnlyByInitAndReset :=
  ⟨fun _ _ _ h => ⟨c16Valid_of_exec h, c32Valid_of_exec h⟩, fun _ => ⟨rfl, rfl⟩⟩

/-! ### The overflow bit (R25) -/

/-- RXD.PUSH on a chunk that fits the buffer: a full one is the only one without room. -/
theorem rxdOvf_of_rxdPush {b : Byte} {s t : State} (hfits : s.rxdBuf.length ≤ rxCap s.cfg)
    (h : exec (.rxdPush [b]) s = .next t) :
    t.rxdOvf = if b = terminator then false else if s.rxdBuf.length = rxCap s.cfg then true else s.rxdOvf := by
  split_ifs with hb hfull
  · subst hb
    obtain ⟨st, data, hpush, -⟩ := pushTerminator_eq s
    rw [exec_rxdPush_terminator] at h
    obtain rfl := next_unique hpush h
    rfl
  · rw [exec_rxdPush_data hb] at h
    obtain ⟨hroom, -⟩ | ⟨-, hpush⟩ := pushData_cases b s
    · exact absurd hfull hroom.ne
    · obtain rfl := next_unique hpush h
      rfl
  · rw [exec_rxdPush_data hb] at h
    obtain ⟨-, hpush⟩ | ⟨hnoRoom, -⟩ := pushData_cases b s
    · obtain rfl := next_unique hpush h
      rfl
    · exact absurd (hfits.antisymm hnoRoom) hfull

/-- Settles O15: RXD.PUSH by whether the byte is the terminator and the chunk full, RXD.FLUSH and SYS.RESET by their own
rules, every other form by the frame of its effect. -/
theorem overflowBitChangesOnlyAsListed : Obligations.OverflowBitChangesOnlyAsListed := by
  refine ⟨fun i s t hfits h => ?_, fun _ => rfl⟩
  split
  · exact rxdOvf_of_rxdPush hfits h
  · obtain rfl := next_unique (exec_rxdFlush_nil s) h
    rfl
  · obtain rfl := next_unique (exec_sysReset_nil s) h
    rfl
  · next hpush hflush hreset =>
    obtain ⟨s', st, data, heff, rfl⟩ := effect_of_exec h
    exact (heff.chunk_eq hpush hflush hreset).2

/-! ### The delimiter's invariants (R30) -/

/-- A chunk grows only by a byte that is no terminator and has room, and overflows only when it is full. -/
theorem Effect.inv {s s' : State} {i : Instr} (h : Effect s i s') (hinv : s.Inv) : s'.Inv := by
  obtain ⟨hfits, hterm, hovf⟩ := hinv
  cases h with
  | store b hb hroom =>
    refine ⟨?_, ?_, fun ho => absurd (hovf ho) hroom.ne⟩
    · simpa using hroom
    · simpa using ⟨hterm, hb.symm⟩
  | drop b hb hfull => exact ⟨hfits, hterm, fun _ => hfits.antisymm hfull⟩
  | endChunk | flush | reset => exact ⟨Nat.zero_le _, List.not_mem_nil, nofun⟩
  | _ => exact ⟨hfits, hterm, hovf⟩

/-- Settles O11: the invariant speaks of no waiting packet and no response, and every effect keeps it. -/
theorem stepKeepsTheDelimiterInvariant : Obligations.StepKeepsTheDelimiterInvariant := by
  intro s t hinv h
  obtain ⟨p, rest, -, ⟨i, -, hexec⟩ | ⟨opc, -, hill⟩⟩ := step_eq_next_cases h
  · obtain ⟨s', st, data, heff, rfl⟩ := effect_of_exec hexec
    exact heff.inv hinv
  · obtain rfl := respond_eq_next.mp hill
    exact hinv

theorem inv_resetWith (c : Config) : (State.resetWith c).Inv :=
  ⟨Nat.zero_le _, List.not_mem_nil, nofun⟩

/-- Settles O12: at reset the chunk is empty and the overflow bit 0. -/
theorem resetMeetsTheDelimiterInvariant : Obligations.ResetMeetsTheDelimiterInvariant :=
  ⟨inv_resetWith defaultConfig, inv_resetWith⟩

/-! ### The codec reads the parameters only (R29) -/

theorem respondDecode_of_cfg (c : Config) (r : DecodeResult) :
    ∃ response, ∀ s : State, s.cfg = c → respondDecode r s = .next (s.emit response) := by
  cases r with
  | frame f => exact ⟨responsePacket .ok (rawFrame c f), fun s hcfg => by rw [respondDecode, hcfg, respond]⟩
  | formatError cause => exact ⟨_, fun _ _ => rfl⟩
  | checksumError received computed => exact ⟨_, fun _ _ => rfl⟩

/-- FRM.ENCODE and FRM.DECODE answer by the parameters and the operand, the same in every state of a build. -/
theorem exec_frm_of_cfg (c : Config) {opd : List Byte} {i : Instr} (hi : i ∈ [Instr.frmEncode opd, .frmDecode opd]) :
    ∃ response, ∀ s : State, s.cfg = c → exec i s = .next (s.emit response) := by
  rw [List.mem_pair] at hi
  obtain rfl | rfl := hi
  · cases hopd : idAndPayload c opd with
    | none =>
      refine ⟨responsePacket .badLength [], ?_⟩
      rintro s rfl
      simp only [exec, execFrmEncode, hopd, badLength, respond]
    | some a =>
      refine ⟨responsePacket .ok (encodeFrame c a.1 a.2), ?_⟩
      rintro s rfl
      simp only [exec, execFrmEncode, hopd, respond]
  · obtain ⟨response, hresponse⟩ := respondDecode_of_cfg c (decodeFrame c opd)
    refine ⟨response, ?_⟩
    rintro s rfl
    exact hresponse s rfl

/-- Settles O17: the response of the build the two states share. -/
theorem codecReadsAndWritesNoState : Obligations.CodecReadsAndWritesNoState := by
  intro opd s s' hcfg i hi
  obtain ⟨response, hresponse⟩ := exec_frm_of_cfg s'.cfg hi
  exact ⟨response, hresponse s hcfg, hresponse s' rfl⟩

/-! ### The engines are independent (R28) -/

/-- A C16 command on a state with other C32 elements does what it did before and carries them along. -/
theorem exec_c16_ignores_c32 {opd : List Byte} {i : Instr}
    (hi : i ∈ [Instr.c16Init opd, .c16Update opd, .c16Final opd]) (s : State) (v : Bool) (w : BitVec 32) :
    ∃ t, exec i s = .next t ∧ t.c32Valid = s.c32Valid ∧ t.c32State = s.c32State ∧
      exec i { s with c32Valid := v, c32State := w } = .next { t with c32Valid := v, c32State := w } := by
  simp only [List.mem_cons, List.not_mem_nil, or_false] at hi
  obtain rfl | rfl | rfl := hi
  · simp only [exec, execC16Init]
    split_ifs <;> exact ⟨_, rfl, rfl, rfl, rfl⟩
  · simp only [exec, execC16Update]
    split_ifs <;> exact ⟨_, rfl, rfl, rfl, rfl⟩
  · simp only [exec, execC16Final]
    split_ifs <;> exact ⟨_, rfl, rfl, rfl, rfl⟩

/-- A C32 command on a state with other C16 elements does what it did before and carries them along. -/
theorem exec_c32_ignores_c16 {opd : List Byte} {i : Instr}
    (hi : i ∈ [Instr.c32Init opd, .c32Update opd, .c32Final opd]) (s : State) (v : Bool) (w : BitVec 16) :
    ∃ t, exec i s = .next t ∧ t.c16Valid = s.c16Valid ∧ t.c16State = s.c16State ∧
      exec i { s with c16Valid := v, c16State := w } = .next { t with c16Valid := v, c16State := w } := by
  simp only [List.mem_cons, List.not_mem_nil, or_false] at hi
  obtain rfl | rfl | rfl := hi
  · simp only [exec, execC32Init]
    split_ifs <;> exact ⟨_, rfl, rfl, rfl, rfl⟩
  · simp only [exec, execC32Update]
    split_ifs <;> exact ⟨_, rfl, rfl, rfl, rfl⟩
  · simp only [exec, execC32Final]
    split_ifs <;> exact ⟨_, rfl, rfl, rfl, rfl⟩

/-- Settles O16: each branch of a command of one engine reads and writes that engine alone. -/
theorem enginesAreIndependent : Obligations.EnginesAreIndependent :=
  fun _ s => ⟨fun _ hi => exec_c16_ignores_c32 hi s, fun _ hi => exec_c32_ignores_c16 hi s⟩

/-! ### A message with other commands in between (R26, R153) -/

/-- R145 for one engine: a message may be cut anywhere. -/
theorem crcUpdate_append {W : Nat} (P : CrcParams W) (s : BitVec W) (a b : List Byte) :
    crcUpdate P s (a ++ b) = crcUpdate P (crcUpdate P s a) b := by
  induction a generalizing s with
  | nil => rfl
  | cons x a ih => exact ih (crcByte P s x)

section
variable {W : Nat} (params : Config → CrcParams W) (valid : State → Bool) (register : State → BitVec W)
  (added : Instr → List Byte)

/-- The command completes and leaves a valid engine valid, its running register updated by the bytes the command adds to
the message. -/
def KeepsMessage (i : Instr) : Prop :=
  ∀ s : State, valid s = true → ∃ t, exec i s = .next t ∧ t.cfg = s.cfg ∧ valid t = true ∧
    register t = crcUpdate (params s.cfg) (register s) (added i)

/-- A list of commands that each keep the message keeps it, the added bytes in order. -/
theorem execAll_of_keepsMessage (commands : List Instr)
    (hkeep : ∀ i ∈ commands, KeepsMessage params valid register added i) (s : State) (hv : valid s = true) :
    ∃ t, execAll commands s = .next t ∧ valid t = true ∧
      register t = crcUpdate (params s.cfg) (register s) (commands.flatMap added) := by
  induction commands generalizing s with
  | nil => exact ⟨s, rfl, hv, rfl⟩
  | cons i rest ih =>
    obtain ⟨hi, hrest⟩ := List.forall_mem_cons.mp hkeep
    obtain ⟨s', hexec, hcfg, hv', hreg'⟩ := hi s hv
    obtain ⟨t, hall, hvt, hregt⟩ := ih hrest s' hv'
    refine ⟨t, ?_, hvt, ?_⟩
    · simpa only [execAll, hexec] using hall
    · rw [hregt, hcfg, hreg', ← crcUpdate_append, List.flatMap_cons]

end

theorem c16MessageBytes_eq_nil {i : Instr} (h : ∀ opd, i ≠ .c16Update opd) : c16MessageBytes i = [] := by
  cases i with
  | c16Update opd => exact absurd rfl (h opd)
  | _ => rfl

theorem c32MessageBytes_eq_nil {i : Instr} (h : ∀ opd, i ≠ .c32Update opd) : c32MessageBytes i = [] := by
  cases i with
  | c32Update opd => exact absurd rfl (h opd)
  | _ => rfl

theorem keepsMessage_c16 {i : Instr} (hinit : i ≠ .c16Init []) (hreset : i ≠ .sysReset []) :
    KeepsMessage Config.p16 State.c16Valid State.c16State c16MessageBytes i := by
  intro s hv
  by_cases hupdate : ∃ opd, i = .c16Update opd
  · obtain ⟨opd, rfl⟩ := hupdate
    exact ⟨_, exec_c16Update_of_valid hv opd, rfl, hv, rfl⟩
  · rw [not_exists] at hupdate
    obtain ⟨s', st, data, heff, hexec⟩ := exec_effect i s
    refine ⟨_, hexec, heff.cfg_eq, (heff.c16Valid_eq hinit hreset).trans hv, ?_⟩
    rw [c16MessageBytes_eq_nil hupdate, crcUpdate_nil]
    exact heff.c16State_eq hinit hupdate hreset

theorem keepsMessage_c32 {i : Instr} (hinit : i ≠ .c32Init []) (hreset : i ≠ .sysReset []) :
    KeepsMessage Config.p32 State.c32Valid State.c32State c32MessageBytes i := by
  intro s hv
  by_cases hupdate : ∃ opd, i = .c32Update opd
  · obtain ⟨opd, rfl⟩ := hupdate
    exact ⟨_, exec_c32Update_of_valid hv opd, rfl, hv, rfl⟩
  · rw [not_exists] at hupdate
    obtain ⟨s', st, data, heff, hexec⟩ := exec_effect i s
    refine ⟨_, hexec, heff.cfg_eq, (heff.c32Valid_eq hinit hreset).trans hv, ?_⟩
    rw [c32MessageBytes_eq_nil hupdate, crcUpdate_nil]
    exact heff.c32State_eq hinit hupdate hreset

/-- Settles O30: every command but INIT and SYS.RESET keeps the message, so a list of them does. -/
theorem interleavedCommandsKeepTheC16Message : Obligations.InterleavedCommandsKeepTheC16Message :=
  fun commands s hv hcommands => execAll_of_keepsMessage _ _ _ _ commands
    (fun i hi => keepsMessage_c16 (hcommands i hi).1 (hcommands i hi).2) s hv

/-- Settles O31: every command but INIT and SYS.RESET keeps the message, so a list of them does. -/
theorem interleavedCommandsKeepTheC32Message : Obligations.InterleavedCommandsKeepTheC32Message :=
  fun commands s hv hcommands => execAll_of_keepsMessage _ _ _ _ commands
    (fun i hi => keepsMessage_c32 (hcommands i hi).1 (hcommands i hi).2) s hv

/-! ### States that look the same (R27) -/

namespace State.SameSeen

variable {s t : State}

theorem emit (h : s.SameSeen t) (p : List Byte) : (s.emit p).SameSeen (t.emit p) := by
  obtain ⟨hunits, hin, hout⟩ := h
  exact ⟨hunits, hin, congrArg (· ++ [p]) hout⟩

theorem withInput (h : s.SameSeen t) (rest : List (List Byte)) :
    State.SameSeen { s with input := rest } { t with input := rest } := by
  obtain ⟨hunits, -, hout⟩ := h
  exact ⟨hunits, rfl, hout⟩

theorem initC16 (h : s.SameSeen t) (v : BitVec 16) : (s.initC16 v).SameSeen (t.initC16 v) := by
  obtain ⟨⟨hcfg, -, -, h32⟩, hio⟩ := h
  exact ⟨⟨hcfg, rfl, fun _ => rfl, h32⟩, hio⟩

theorem setC16 (h : s.SameSeen t) (v : BitVec 16) : (s.setC16 v).SameSeen (t.setC16 v) := by
  obtain ⟨⟨hcfg, hv16, -, h32⟩, hio⟩ := h
  exact ⟨⟨hcfg, hv16, fun _ => rfl, h32⟩, hio⟩

theorem initC32 (h : s.SameSeen t) (v : BitVec 32) : (s.initC32 v).SameSeen (t.initC32 v) := by
  obtain ⟨⟨hcfg, hv16, h16, -, -, hrxd⟩, hio⟩ := h
  exact ⟨⟨hcfg, hv16, h16, rfl, fun _ => rfl, hrxd⟩, hio⟩

theorem setC32 (h : s.SameSeen t) (v : BitVec 32) : (s.setC32 v).SameSeen (t.setC32 v) := by
  obtain ⟨⟨hcfg, hv16, h16, hv32, -, hrxd⟩, hio⟩ := h
  exact ⟨⟨hcfg, hv16, h16, hv32, fun _ => rfl, hrxd⟩, hio⟩

theorem storeByte (h : s.SameSeen t) (b : Byte) : (s.storeByte b).SameSeen (t.storeByte b) := by
  obtain ⟨⟨hcfg, hv16, h16, hv32, h32, hbuf, hovf⟩, hio⟩ := h
  exact ⟨⟨hcfg, hv16, h16, hv32, h32, congrArg (· ++ [b]) hbuf, hovf⟩, hio⟩

theorem setOverflow (h : s.SameSeen t) : s.setOverflow.SameSeen t.setOverflow := by
  obtain ⟨⟨hcfg, hv16, h16, hv32, h32, hbuf, -⟩, hio⟩ := h
  exact ⟨⟨hcfg, hv16, h16, hv32, h32, hbuf, rfl⟩, hio⟩

theorem clearChunk (h : s.SameSeen t) : s.clearChunk.SameSeen t.clearChunk := by
  obtain ⟨⟨hcfg, hv16, h16, hv32, h32, -⟩, hio⟩ := h
  exact ⟨⟨hcfg, hv16, h16, hv32, h32, rfl, rfl⟩, hio⟩

/-- SYS.RESET may leave two different pairs of registers, and both are invalid then. -/
theorem resetUnits (h : s.SameSeen t) : s.resetUnits.SameSeen t.resetUnits := by
  obtain ⟨⟨hcfg, -⟩, hio⟩ := h
  exact ⟨⟨hcfg, rfl, nofun, rfl, nofun, rfl, rfl⟩, hio⟩

end State.SameSeen

/-- Both outcomes are next states, and the two look the same. -/
def EndAlike (o o' : Host.Outcome State Fault Refusal) : Prop :=
  ∃ s' t', o = .next s' ∧ o' = .next t' ∧ s'.SameSeen t'

section
variable {s t : State}

theorem endAlike_next_emit (h : s.SameSeen t) (p : List Byte) :
    EndAlike (.next (s.emit p)) (.next (t.emit p)) :=
  ⟨_, _, rfl, rfl, h.emit p⟩

theorem endAlike_respond (h : s.SameSeen t) (st : Status) (data : List Byte) :
    EndAlike (respond st data s) (respond st data t) :=
  endAlike_next_emit h _

theorem endAlike_ite {c : Prop} [Decidable c] {a a' b b' : Host.Outcome State Fault Refusal}
    (hpos : c → EndAlike a a') (hneg : ¬ c → EndAlike b b') :
    EndAlike (if c then a else b) (if c then a' else b') := by
  split_ifs with hc
  · exact hpos hc
  · exact hneg hc

/-- A command that must have no operand. -/
theorem endAlike_noOperand (h : s.SameSeen t) (opd : List Byte) {a a' : Host.Outcome State Fault Refusal}
    (hform : EndAlike a a') :
    EndAlike (if noOperand opd then a else badLength s) (if noOperand opd then a' else badLength t) :=
  endAlike_ite (fun _ => hform) fun _ => endAlike_respond h _ _

/-- A command that is answered NOT_INIT when C16 is not valid: its rule may use that the running registers are equal. -/
theorem endAlike_c16Valid (h : s.SameSeen t) {a a' : Host.Outcome State Fault Refusal}
    (hrule : s.c16State = t.c16State → EndAlike a a') :
    EndAlike (if s.c16Valid then a else notInit s) (if t.c16Valid then a' else notInit t) := by
  obtain ⟨-, hvalid, hstate, -⟩ := h.1
  rw [← hvalid]
  exact endAlike_ite (fun hv => hrule (hstate hv)) fun _ => endAlike_respond h _ _

/-- A command that is answered NOT_INIT when C32 is not valid: its rule may use that the running registers are equal. -/
theorem endAlike_c32Valid (h : s.SameSeen t) {a a' : Host.Outcome State Fault Refusal}
    (hrule : s.c32State = t.c32State → EndAlike a a') :
    EndAlike (if s.c32Valid then a else notInit s) (if t.c32Valid then a' else notInit t) := by
  obtain ⟨-, -, -, hvalid, hstate, -⟩ := h.1
  rw [← hvalid]
  exact endAlike_ite (fun hv => hrule (hstate hv)) fun _ => endAlike_respond h _ _

theorem endAlike_frm (h : s.SameSeen t) {opd : List Byte} {i : Instr}
    (hi : i ∈ [Instr.frmEncode opd, .frmDecode opd]) : EndAlike (exec i s) (exec i t) := by
  obtain ⟨response, hresponse⟩ := exec_frm_of_cfg t.cfg hi
  rw [hresponse s h.1.1, hresponse t rfl]
  exact endAlike_next_emit h response

theorem endAlike_pushData (h : s.SameSeen t) (b : Byte) : EndAlike (pushData b s) (pushData b t) := by
  have hroom : s.chunkHasRoom = t.chunkHasRoom := by
    obtain ⟨hcfg, -, -, -, -, hbuf, -⟩ := h.1
    rw [State.chunkHasRoom, State.chunkHasRoom, hcfg, hbuf]
  rw [pushData, pushData, hroom]
  refine endAlike_respond ?_ _ _
  split_ifs
  · exact h.storeByte b
  · exact h.setOverflow

theorem endAlike_pushTerminator (h : s.SameSeen t) : EndAlike (pushTerminator s) (pushTerminator t) := by
  obtain ⟨hcfg, -, -, -, -, hbuf, hovf⟩ := h.1
  rw [pushTerminator, pushTerminator, hovf, hcfg, hbuf]
  refine endAlike_ite (fun _ => endAlike_respond h.clearChunk _ _) fun _ => ?_
  obtain ⟨response, hresponse⟩ := respondDecode_of_cfg t.cfg (decodeFrame t.cfg (t.rxdBuf ++ [terminator]))
  rw [hresponse s.clearChunk hcfg, hresponse t.clearChunk rfl]
  exact endAlike_next_emit h.clearChunk response

/-- No command tells two states apart that look the same. -/
theorem endAlike_exec (h : s.SameSeen t) (i : Instr) : EndAlike (exec i s) (exec i t) := by
  obtain ⟨hcfg, hv16, -, hv32, -, hbuf, hovf⟩ := h.1
  cases i with
  | sysNop opd => exact endAlike_noOperand h opd (endAlike_respond h _ _)
  | sysReset opd => exact endAlike_noOperand h opd (endAlike_respond h.resetUnits _ _)
  | sysStatus opd =>
    refine endAlike_noOperand h opd ?_
    rw [statusFlags, State.rxdLen, hv16, hv32, hovf, hbuf]
    exact endAlike_respond h _ _
  | frmEncode opd => exact endAlike_frm h (opd := opd) (by simp)
  | frmDecode opd => exact endAlike_frm h (opd := opd) (by simp)
  | c16Init opd =>
    refine endAlike_noOperand h opd ?_
    rw [hcfg]
    exact endAlike_respond (h.initC16 _) _ _
  | c16Update opd =>
    refine endAlike_c16Valid h fun hstate => ?_
    rw [hcfg, hstate]
    exact endAlike_respond (h.setC16 _) _ _
  | c16Final opd =>
    refine endAlike_noOperand h opd (endAlike_c16Valid h fun hstate => ?_)
    rw [hcfg, hstate]
    exact endAlike_respond h _ _
  | c32Init opd =>
    refine endAlike_noOperand h opd ?_
    rw [hcfg]
    exact endAlike_respond (h.initC32 _) _ _
  | c32Update opd =>
    refine endAlike_c32Valid h fun hstate => ?_
    rw [hcfg, hstate]
    exact endAlike_respond (h.setC32 _) _ _
  | c32Final opd =>
    refine endAlike_noOperand h opd (endAlike_c32Valid h fun hstate => ?_)
    rw [hcfg, hstate]
    exact endAlike_respond h _ _
  | rxdPush opd =>
    simp only [exec, execRxdPush]
    cases oneByte opd with
    | none => exact endAlike_respond h _ _
    | some b => exact endAlike_ite (fun _ => endAlike_pushData h b) fun _ => endAlike_pushTerminator h
  | rxdFlush opd => exact endAlike_noOperand h opd (endAlike_respond h.clearChunk _ _)

end

/-- Settles O13: the other state takes the same packet, and its command ends alike. -/
theorem unspecifiedRegistersCannotBeObserved : Obligations.UnspecifiedRegistersCannotBeObserved := by
  intro s t s' h hstep
  obtain ⟨p, rest, hin, hcase⟩ := step_eq_next_cases hstep
  have htin : t.input = p :: rest := h.2.1.symm.trans hin
  have htaken := h.withInput rest
  obtain ⟨i, hdec, hexec⟩ | ⟨opc, hdec, hill⟩ := hcase
  · rw [step_of_decode_command htin hdec]
    obtain ⟨s'', t', hs, ht, hsame⟩ := endAlike_exec htaken i
    obtain rfl := next_unique hexec hs
    exact ⟨t', ht, hsame⟩
  · rw [step_of_decode_illegalOp htin hdec]
    obtain rfl := respond_eq_next.mp hill
    exact ⟨_, rfl, htaken.emit _⟩

end Sys2Proof.Machine

/-! Proofs of the statements of 30_encoding.md: the packet format and its decoder (R70, R71, R74, R75), the order of
the decoder's checks (R78, R79), and the response to every packet (R72). -/

/-! ### Packets and commands (R70, R71, R75) -/

namespace Sys2Proof

theorem encode_length (i : Instr) : (encode i).length = 3 + i.opd.length := by
  rw [encode, packetBytes, List.length_cons, List.length_append, le16_length]
  omega

theorem wellFormed_iff {i : Instr} : i.wellFormed = true ↔ i.opd.length ≤ 65535 := by
  rw [Instr.wellFormed, decide_eq_true_iff]

theorem decode_packetBytes_of_some {opc : Byte} {opd : List Byte} {i : Instr} (hlen : opd.length ≤ 65535)
    (hsome : instrOf opc opd = some i) : decode (packetBytes opc opd) = .command i := by
  rw [decode_packetBytes opc opd hlen, hsome]

theorem decode_packetBytes_of_none {opc : Byte} {opd : List Byte} (hlen : opd.length ≤ 65535)
    (hnone : instrOf opc opd = none) : decode (packetBytes opc opd) = .illegalOp opc := by
  rw [decode_packetBytes opc opd hlen, hnone]

theorem decode_encode {i : Instr} (hwf : i.wellFormed = true) : decode (encode i) = .command i :=
  decode_packetBytes_of_some (wellFormed_iff.mp hwf) (instrOf_opc i)

/-- Settles O2: the length field of the packet reads back, and the opcode map selects the command by its own opcode. -/
theorem decodeOfEncodeIsTheCommand : Obligations.DecodeOfEncodeIsTheCommand :=
  fun i hwf => ⟨encode_length i, decode_encode hwf⟩

/-- Settles O3: the fields of the packet are the opcode and the operand of the command read from it. -/
theorem eachCommandHasOnePacket : Obligations.EachCommandHasOnePacket := by
  intro p i hdec
  obtain ⟨hmal, -⟩ | ⟨opc, opd, hlen, rfl, hfields⟩ := decode_cases p
  · simp [hmal] at hdec
  · rw [hdec] at hfields
    cases hinstr : instrOf opc opd with
    | none => simp [hinstr] at hfields
    | some j =>
      obtain rfl : i = j := by simpa [hinstr] using hfields
      obtain ⟨rfl, rfl⟩ := instrOf_some hinstr
      exact ⟨rfl, wellFormed_iff.mpr hlen⟩

/-- R71: the decoder refuses a byte string exactly when it is not `3 + LEN` bytes long. -/
theorem decode_eq_malformed_iff (p : List Byte) :
    decode p = .malformed ↔
      ¬ (3 ≤ p.length ∧ p.length = 3 + ((p.getD 1 0).toNat + 256 * (p.getD 2 0).toNat)) := by
  match p with
  | [] | [_] | [_, _] => simp [decode]
  | opc :: lo :: hi :: opd =>
    have hwhole : opd.length = (unle16 lo hi).toNat ↔
        (opc :: lo :: hi :: opd).length = 3 + (lo.toNat + 256 * hi.toNat) := by
      rw [unle16_toNat]
      simp only [List.length_cons]
      omega
    have hthree : 3 ≤ (opc :: lo :: hi :: opd).length := Nat.le_add_left 3 opd.length
    simp only [decode, List.getD_cons_succ, List.getD_cons_zero, hthree, true_and, ← hwhole]
    split_ifs with hlen
    · cases instrOf opc opd <;> simp [hlen]
    · simp [hlen]

/-- Settles O1: the decoder is evaluated on each string. -/
theorem decodesWrittenPackets : Obligations.DecodesWrittenPackets := by
  unfold Obligations.DecodesWrittenPackets
  decide

/-! ### Reserved opcodes (R79) -/

/-- The listed ranges are the opcodes that no row of the map selects. -/
theorem find?_opcodeTable_isNone (opc : Byte) :
    (opcodeTable.find? (·.selects opc)).isNone = Machine.reservedOpcode opc := by
  revert opc
  decide

theorem instrOf_eq_none_iff {opc : Byte} {opd : List Byte} :
    instrOf opc opd = none ↔ Machine.reservedOpcode opc = true := by
  rw [instrOf, Option.map_eq_none_iff, ← find?_opcodeTable_isNone, Option.isNone_iff_eq_none]

/-- An opcode outside the listed ranges is the opcode of a command. -/
theorem exists_instr_of_not_reserved {opc : Byte} (opd : List Byte) (hres : Machine.reservedOpcode opc = false) :
    ∃ i : Instr, i.opc = opc ∧ i.opd = opd := by
  cases hinstr : instrOf opc opd with
  | none => simp [instrOf_eq_none_iff.mp hinstr] at hres
  | some i => exact ⟨i, instrOf_some hinstr⟩

end Sys2Proof

namespace Sys2Proof.Machine

/-- Settles O4: the step refuses what the decoder does. -/
theorem onlyWholePacketsAreCommands : Obligations.OnlyWholePacketsAreCommands := by
  intro s p rest hin
  rw [← decode_eq_malformed_iff, step_eq_refused_iff, hin]
  simp

/-! ### The lengths of stuffed bytes and frames (41_frame_codec.md R100, R104) -/

theorem cksBytes_length (o : CksumOrder) (v : BitVec 16) : (cksBytes o v).length = 2 := by
  cases o <;> rfl

theorem rawFrame_length (c : Config) (f : Frame) : (rawFrame c f).length = f.payload.length + 3 := by
  rw [rawFrame, List.length_append, cksBytes_length, List.length_cons]
  omega

/-- One byte of overhead for the final block and one for each full block, of those already in `blk` and the rest. -/
theorem stuffCobsFrom_length_le (blk raw : List Byte) (hblk : blk.length < 254) :
    (stuffCobsFrom blk raw).length ≤ blk.length + raw.length + (blk.length + raw.length) / 254 + 1 := by
  induction raw generalizing blk with
  | nil => simp [stuffCobsFrom]
  | cons b rest ih =>
    have hnew := ih [] (by simp)
    simp only [List.length_nil, Nat.zero_add] at hnew
    simp only [stuffCobsFrom, List.length_cons]
    split_ifs with hterm hfull
    · rw [List.length_append, codedBlock_length]
      omega
    · rw [List.length_append, codedBlock_length, List.length_append, List.length_singleton]
      omega
    · have hlonger := ih (blk ++ [b]) (by simp; omega)
      rw [List.length_append, List.length_singleton] at hlonger
      omega

theorem finalBlockCobsr_length_le (z : Byte) (blk : List Byte) :
    (finalBlockCobsr z blk).length ≤ blk.length + 1 := by
  rw [finalBlockCobsr]
  split_ifs
  · exact (codedBlock_length blk).le
  · simp

/-- The loop of `StuffR` differs from that of `Stuff` at the end only, and writes no more there (R127). -/
theorem stuffCobsrFrom_length_le (z : Byte) (blk raw : List Byte) (hblk : blk.length < 254) :
    (stuffCobsrFrom z blk raw).length ≤ (stuffCobsFrom blk raw).length := by
  induction raw generalizing z blk with
  | nil => exact finalBlockCobsr_length_le z blk
  | cons b rest ih =>
    have hnew := ih b [] (by simp)
    simp only [stuffCobsFrom, stuffCobsrFrom]
    by_cases hterm : b = terminator
    · simpa [hterm] using hterm ▸ hnew
    · by_cases hfull : blk.length + 1 = 254
      · cases rest with
        | nil =>
          have hfinal := finalBlockCobsr_length_le b (blk ++ [b])
          simpa [hterm, hfull, stuffCobsFrom, stuffCobsrFrom] using hfinal.trans (Nat.le_succ _)
        | cons b' rest' => simpa [hterm, hfull] using hnew
      · simpa [hterm, hfull] using ih b (blk ++ [b]) (by simp; omega)

theorem stuff_length_le (alg : StuffAlg) (raw : List Byte) :
    (stuff alg raw).length ≤ raw.length + raw.length / 254 + 1 := by
  have hcobs : (stuffCobs raw).length ≤ raw.length + raw.length / 254 + 1 := by
    simpa [stuffCobs] using stuffCobsFrom_length_le [] raw (by simp)
  cases alg with
  | cobs => exact hcobs
  | cobsr => exact (stuffCobsrFrom_length_le terminator [] raw (by simp)).trans hcobs

/-- The encoded stream of a legal payload fits the length field of a response (R72). -/
theorem encodeFrame_length_lt (c : Config) (id : Byte) {payload : List Byte}
    (hlegal : payload.length ≤ c.maxPayload.val) : (encodeFrame c id payload).length < 65536 := by
  have hmax := c.maxPayload.isLt
  have hstuff := stuff_length_le c.stuffAlg (rawFrame c ⟨id, payload, frameChecksum c id payload⟩)
  rw [rawFrame_length] at hstuff
  dsimp only at hstuff
  rw [encodeFrame, List.length_append, List.length_singleton]
  omega

theorem checkRaw_frame_payload {c : Config} {raw : List Byte} {f : Frame} (h : checkRaw c raw = .frame f) :
    f.payload.length ≤ c.maxPayload.val := by
  obtain ⟨-, hres⟩ | ⟨-, -, hres⟩ | ⟨k0, k1, id, payload, -, hlegal, hres⟩ := checkRaw_cases c raw
  · simp [hres] at h
  · simp [hres] at h
  · rw [hres] at h
    split_ifs at h
    obtain rfl := DecodeResult.frame.inj h
    exact hlegal

/-- A frame comes only from the checks on the unstuffed body, so its payload is legal (R110). -/
theorem decodeFrame_frame_payload {c : Config} {stream : List Byte} {f : Frame}
    (h : decodeFrame c stream = .frame f) : f.payload.length ≤ c.maxPayload.val := by
  rw [decodeFrame] at h
  split_ifs at h
  cases hraw : unstuff c.stuffAlg stream.dropLast with
  | none => simp [hraw] at h
  | some raw => exact checkRaw_frame_payload (by simpa [hraw] using h)

theorem rawFrame_length_lt_of_decodeFrame {c : Config} {stream : List Byte} {f : Frame}
    (h : decodeFrame c stream = .frame f) : (rawFrame c f).length < 65536 := by
  have hmax := c.maxPayload.isLt
  have hlegal := decodeFrame_frame_payload h
  rw [rawFrame_length]
  omega

/-! ### What a command answers, by whether its length is accepted (R72, R78) -/

/-- The outcome is a next state that has one response more than `s`, with a status and data as `P` says. -/
def Answers (s : State) (P : Status → List Byte → Prop) (o : Host.Outcome State Fault Refusal) : Prop :=
  ∃ t st data, o = .next t ∧ t.output = s.output ++ [responsePacket st data] ∧ P st data

/-- A response of a command's own rule: its status is not one of the decoding (R78), and its data fits `RLEN` (R72). -/
def OfRule (st : Status) (data : List Byte) : Prop :=
  st ≠ .illegalOp ∧ st ≠ .badLength ∧ data.length < 65536

section
variable {s s' t : State} {P Q : Status → List Byte → Prop} {o : Host.Outcome State Fault Refusal}

theorem Answers.mono (h : Answers s P o) (hPQ : ∀ st data, P st data → Q st data) : Answers s Q o := by
  obtain ⟨t, st, data, ho, hout, hP⟩ := h
  exact ⟨t, st, data, ho, hout, hPQ st data hP⟩

/-- The response is read off the output. -/
theorem Answers.of_output (h : Answers s P o) (ho : o = .next t) {st : Status} {data : List Byte}
    (hout : t.output = s.output ++ [responsePacket st data]) : P st data := by
  obtain ⟨t', st', data', ho', hout', hP⟩ := h
  obtain rfl := next_unique ho ho'
  have hpacket : responsePacket st data = responsePacket st' data' := by
    simpa using hout.symm.trans hout'
  obtain ⟨rfl, rfl⟩ := responsePacket_inj.mp hpacket
  exact hP

theorem answers_respond (hout : s'.output = s.output) {st : Status} {data : List Byte} (hP : P st data) :
    Answers s P (respond st data s') :=
  ⟨_, st, data, rfl, by rw [State.emit_output, hout], hP⟩

theorem answers_ok (hout : s'.output = s.output) {data : List Byte} (hdata : data.length < 65536) :
    Answers s OfRule (respond .ok data s') :=
  answers_respond hout ⟨nofun, nofun, hdata⟩

theorem answers_noOperand {opd : List Byte} (hform : noOperand opd = true) (ho : Answers s P o) :
    Answers s P (if noOperand opd then o else badLength s) := by
  rwa [if_pos hform]

/-- A command that is answered NOT_INIT when its engine is not valid. -/
theorem answers_valid (valid : Bool) (ho : Answers s OfRule o) :
    Answers s OfRule (if valid then o else notInit s) := by
  cases valid with
  | true => exact ho
  | false => exact answers_respond rfl ⟨nofun, nofun, Nat.zero_lt_succ _⟩

theorem answers_respondDecode (hout : s'.output = s.output) (stream : List Byte) :
    Answers s OfRule (respondDecode (decodeFrame s'.cfg stream) s') := by
  cases hdec : decodeFrame s'.cfg stream with
  | frame f => exact answers_ok hout (rawFrame_length_lt_of_decodeFrame hdec)
  | formatError cause => exact answers_respond hout ⟨nofun, nofun, by simp⟩
  | checksumError received computed => exact answers_respond hout ⟨nofun, nofun, by simp⟩

end

theorem answers_frmEncode {opd : List Byte} {s : State} (hacc : lenAccepted s.cfg (.frmEncode opd) = true) :
    Answers s OfRule (exec (.frmEncode opd) s) := by
  rw [exec, execFrmEncode]
  cases hopd : idAndPayload s.cfg opd with
  | none =>
    have hbad := idAndPayload_eq_none.mp hopd
    simp only [lenAccepted, decide_eq_true_eq] at hacc
    omega
  | some a => exact answers_ok rfl (encodeFrame_length_lt s.cfg a.1 (idAndPayload_eq_some.mp hopd).2)

theorem answers_pushData (b : Byte) (s : State) : Answers s OfRule (pushData b s) := by
  obtain ⟨-, hpush⟩ | ⟨-, hpush⟩ := pushData_cases b s
  · exact hpush ▸ answers_respond rfl ⟨nofun, nofun, Nat.zero_lt_succ _⟩
  · exact hpush ▸ answers_respond rfl ⟨nofun, nofun, Nat.zero_lt_succ _⟩

theorem answers_pushTerminator (s : State) : Answers s OfRule (pushTerminator s) := by
  rw [pushTerminator]
  split_ifs
  · exact answers_respond rfl ⟨nofun, nofun, by simp⟩
  · exact answers_respondDecode (s' := s.clearChunk) rfl _

theorem answers_rxdPush {opd : List Byte} {s : State} (hacc : lenAccepted s.cfg (.rxdPush opd) = true) :
    Answers s OfRule (exec (.rxdPush opd) s) := by
  obtain ⟨b, rfl⟩ := List.length_eq_one_iff.mp (of_decide_eq_true hacc)
  by_cases hb : b = terminator
  · exact hb ▸ answers_pushTerminator s
  · exact exec_rxdPush_data hb s ▸ answers_pushData b s

/-- A command of an accepted length is answered by its own rule. -/
theorem answers_of_lenAccepted {i : Instr} {s : State} (hacc : lenAccepted s.cfg i = true) :
    Answers s OfRule (exec i s) := by
  cases i with
  | sysNop opd | sysReset opd | sysStatus opd | c16Init opd | c32Init opd | rxdFlush opd =>
    exact answers_noOperand hacc (answers_ok rfl (by simp))
  | frmEncode opd => exact answers_frmEncode hacc
  | frmDecode opd => exact answers_respondDecode rfl opd
  | c16Update opd | c32Update opd => exact answers_valid _ (answers_ok rfl (by simp))
  | c16Final opd | c32Final opd => exact answers_noOperand hacc (answers_valid _ (answers_ok rfl (by simp)))
  | rxdPush opd => exact answers_rxdPush hacc

/-- A command of any other length is answered BAD_LENGTH, and nothing else happens. -/
theorem exec_of_not_lenAccepted {i : Instr} {s : State} (hacc : lenAccepted s.cfg i = false) :
    exec i s = badLength s := by
  cases i with
  | sysNop opd | sysReset opd | sysStatus opd | c16Init opd | c16Final opd | c32Init opd | c32Final opd
  | rxdFlush opd => exact if_neg (Bool.eq_false_iff.mp hacc)
  | frmEncode opd =>
    have hnone : idAndPayload s.cfg opd = none := by
      simp only [lenAccepted, decide_eq_false_iff_not] at hacc
      rw [idAndPayload_eq_none]
      omega
    simp only [exec, execFrmEncode, hnone]
  | rxdPush opd =>
    have hnone : oneByte opd = none := oneByte_eq_none.mpr (of_decide_eq_false hacc)
    simp only [exec, execRxdPush, hnone]
  | frmDecode opd | c16Update opd | c32Update opd => exact absurd hacc nofun

/-- No command is answered ILLEGAL_OP, and no response is cut (R72). -/
theorem exec_answers (i : Instr) (s : State) :
    Answers s (fun st data => st ≠ .illegalOp ∧ data.length < 65536) (exec i s) := by
  cases hacc : lenAccepted s.cfg i with
  | true => exact (answers_of_lenAccepted hacc).mono fun _ _ ⟨hill, _, hdata⟩ => ⟨hill, hdata⟩
  | false => exact exec_of_not_lenAccepted hacc ▸ answers_respond rfl ⟨nofun, Nat.zero_lt_succ _⟩

/-! ### The step on a packet, by its opcode (R78, R79) -/

section
variable {s : State} {opc : Byte} {opd : List Byte} {rest : List (List Byte)}

theorem step_of_reserved (hlen : opd.length ≤ 65535) (hin : s.input = packetBytes opc opd :: rest)
    (hres : reservedOpcode opc = true) : step s = illegalOp { s with input := rest } :=
  step_of_decode_illegalOp hin (decode_packetBytes_of_none hlen (instrOf_eq_none_iff.mpr hres))

theorem step_of_not_reserved (hlen : opd.length ≤ 65535) (hin : s.input = packetBytes opc opd :: rest)
    (hres : reservedOpcode opc = false) :
    ∃ i : Instr, i.opc = opc ∧ i.opd = opd ∧ step s = exec i { s with input := rest } := by
  obtain ⟨i, rfl, rfl⟩ := exists_instr_of_not_reserved opd hres
  exact ⟨i, rfl, rfl, step_of_decode_command hin (decode_packetBytes_of_some hlen (instrOf_opc i))⟩

end

/-- Settles O5: the opcode by the map, the length by the accepted set, and no rule of a command answers BAD_LENGTH. -/
theorem opcodeThenLengthThenRule : Obligations.OpcodeThenLengthThenRule := by
  intro s opc opd rest hlen hin
  refine ⟨step_of_reserved hlen hin, fun hres => ?_⟩
  obtain ⟨i, hopc, hopd, hstep⟩ := step_of_not_reserved hlen hin hres
  refine ⟨i, hopc, hopd, fun hacc => hstep.trans (exec_of_not_lenAccepted hacc), fun hacc => ⟨hstep, ?_⟩⟩
  intro t hnext hout
  obtain ⟨-, hbad, -⟩ : OfRule .badLength [] :=
    (answers_of_lenAccepted (s := { s with input := rest }) hacc).of_output (hstep.symm.trans hnext) hout
  exact hbad rfl

/-- Settles O6: a reserved opcode is answered ILLEGAL_OP by the step, and no command is. -/
theorem illegalOpExactlyForReservedOpcodes : Obligations.IllegalOpExactlyForReservedOpcodes := by
  intro s opc opd rest hlen hin
  refine ⟨fun ⟨t, hnext, hout⟩ => ?_, fun hres => ⟨_, step_of_reserved hlen hin hres, rfl⟩⟩
  by_contra hres
  obtain ⟨i, -, -, hstep⟩ := step_of_not_reserved hlen hin (Bool.not_eq_true _ ▸ hres)
  obtain ⟨hill, -⟩ := (exec_answers i _).of_output (st := .illegalOp) (data := []) (hstep.symm.trans hnext) hout
  exact hill rfl

/-! ### The response to every packet (R72) -/

theorem Status.code_mem (st : Status) : st.code ∈ ([0x00, 0x01, 0x80, 0x81, 0x82, 0x90, 0x91] : List Byte) := by
  cases st <;> decide

/-- The two length bytes of a response whose data fits `RLEN`. -/
theorem responsePacket_eq (st : Status) {data : List Byte} (hdata : data.length < 65536) :
    responsePacket st data =
      st.code :: BitVec.ofNat 8 (data.length % 256) :: BitVec.ofNat 8 (data.length / 256) :: data := by
  have hlen : (BitVec.ofNat 16 data.length).toNat = data.length := Nat.mod_eq_of_lt hdata
  have hlow : BitVec.ofNat 8 data.length = BitVec.ofNat 8 (data.length % 256) :=
    BitVec.eq_of_toNat_eq (Nat.mod_mod _ _).symm
  rw [responsePacket, le16_eq, hlen, hlow]
  rfl

theorem input_of_exec {i : Instr} {s t : State} (h : exec i s = .next t) : t.input = s.input := by
  obtain ⟨s', st, data, heff, rfl⟩ := effect_of_exec h
  exact heff.input_eq

/-- The step takes the packet and gives one response, its data not cut. -/
theorem step_answers {s : State} {p : List Byte} {rest : List (List Byte)} (hin : s.input = p :: rest)
    (hpacket : decode p ≠ .malformed) :
    ∃ t st data, step s = .next t ∧ t.input = rest ∧ t.output = s.output ++ [responsePacket st data] ∧
      data.length < 65536 := by
  cases hdec : decode p with
  | command i =>
    obtain ⟨t, st, data, hexec, hout, -, hdata⟩ := exec_answers i { s with input := rest }
    exact ⟨t, st, data, (step_of_decode_command hin hdec).trans hexec, input_of_exec hexec, hout, hdata⟩
  | illegalOp opc => exact ⟨_, .illegalOp, [], step_of_decode_illegalOp hin hdec, rfl, rfl, Nat.zero_lt_succ _⟩
  | malformed => exact absurd hdec hpacket

/-- Settles O9: the longest data is an encoded stream, and the stuffing adds to it too little to overflow `RLEN`. -/
theorem everyPacketGetsOneResponse : Obligations.EveryPacketGetsOneResponse := by
  intro s p rest hin hpacket
  obtain ⟨t, st, data, hstep, htin, htout, hdata⟩ := step_answers hin hpacket
  exact ⟨t, st.code, data, hstep, htin, st.code_mem, hdata, by rw [htout, responsePacket_eq st hdata]⟩

end Sys2Proof.Machine

/-! Proofs of the statements of 41_frame_codec.md: the stuffing's contract and its lengths (R102, R104, R107, R126,
R127), the frame codec's laws (R110, R112, R113, R116), and the two commands (R120, R121). -/

namespace Sys2Proof.Machine

/-! ### One block: a code byte and its data bytes -/

/-- A block has at most 254 data bytes, so its code fits a byte and is not the terminator. -/
theorem toNat_code {n : Nat} (hn : n ≤ 254) : (BitVec.ofNat 8 (n + 1)).toNat = n + 1 :=
  Nat.mod_eq_of_lt (by omega)

theorem code_eq_255_iff {n : Nat} (hn : n ≤ 254) : BitVec.ofNat 8 (n + 1) = 255#8 ↔ n = 254 := by
  rw [← BitVec.toNat_inj, toNat_code hn, BitVec.toNat_ofNat]
  omega

theorem terminator_notMem_codedBlock {blk : List Byte} (hlen : blk.length ≤ 254) (hfree : terminator ∉ blk) :
    terminator ∉ codedBlock blk := by
  have hcode : terminator ≠ BitVec.ofNat 8 (blk.length + 1) := by
    rw [ne_eq, ← BitVec.toNat_inj, toNat_code hlen]
    exact (Nat.succ_ne_zero _).symm
  exact List.not_mem_cons_of_ne_of_not_mem hcode hfree

section
variable {blk tail raw : List Byte} {fuel : Nat}

/-- What the loop of `Unstuff` gives for a block with something behind it (R105). -/
theorem unstuffCobsFrom_codedBlock_append (hlen : blk.length ≤ 254) (htail : tail ≠ [])
    (hraw : ∀ fuel, tail.length ≤ fuel → unstuffCobsFrom fuel tail = some raw)
    (hfuel : (codedBlock blk ++ tail).length ≤ fuel) :
    unstuffCobsFrom fuel (codedBlock blk ++ tail) =
      some (blk ++ (if blk.length = 254 then [] else [terminator]) ++ raw) := by
  obtain ⟨fuel, rfl⟩ := Nat.exists_eq_add_one.mpr (Nat.zero_lt_of_lt hfuel)
  have hrest := hraw fuel (by simp at hfuel; omega)
  simp [codedBlock, unstuffCobsFrom, toNat_code hlen, code_eq_255_iff hlen, htail, List.length_pos_iff, hrest]

/-- The same for the loop of `UnstuffR` (R126). -/
theorem unstuffCobsrFrom_codedBlock_append (hlen : blk.length ≤ 254) (htail : tail ≠ [])
    (hraw : ∀ fuel, tail.length ≤ fuel → unstuffCobsrFrom fuel tail = raw)
    (hfuel : (codedBlock blk ++ tail).length ≤ fuel) :
    unstuffCobsrFrom fuel (codedBlock blk ++ tail) =
      blk ++ (if blk.length = 254 then [] else [terminator]) ++ raw := by
  obtain ⟨fuel, rfl⟩ := Nat.exists_eq_add_one.mpr (Nat.zero_lt_of_lt hfuel)
  have hrest := hraw fuel (by simp at hfuel; omega)
  simp [codedBlock, unstuffCobsrFrom, toNat_code hlen, code_eq_255_iff hlen, htail, List.length_pos_iff, hrest]

/-- The last block of `Stuff`: no zero is implied after it (R105). -/
theorem unstuffCobsFrom_codedBlock (hlen : blk.length ≤ 254) (hfuel : 0 < fuel) :
    unstuffCobsFrom fuel (codedBlock blk) = some blk := by
  obtain ⟨fuel, rfl⟩ := Nat.exists_eq_add_one.mpr hfuel
  simp [codedBlock, unstuffCobsFrom, toNat_code hlen]

/-- The last block of `StuffR`: a last data byte in the code's place is given back (R126). -/
theorem unstuffCobsrFrom_finalBlockCobsr (hlen : blk.length ≤ 254) (hfuel : 0 < fuel) :
    unstuffCobsrFrom fuel (finalBlockCobsr (blk.getLastD terminator) blk) = blk := by
  obtain ⟨fuel, rfl⟩ := Nat.exists_eq_add_one.mpr hfuel
  rw [finalBlockCobsr]
  split_ifs with hplain
  · simp [codedBlock, unstuffCobsrFrom, toNat_code hlen]
  · obtain rfl | ⟨init, z, rfl⟩ := List.eq_nil_or_concat' blk
    · simp [terminator] at hplain
    · simp only [List.getLastD_concat, List.length_append, List.length_singleton] at hplain
      have hshort : init.length < z.toNat - 1 := by omega
      simp [unstuffCobsrFrom, hshort, hshort.le]

end

/-! ### The contract of `Stuff` (R102) -/

/-- The lower bound of R104, for the bytes in `blk` and the rest. -/
theorem length_lt_stuffCobsFrom (blk raw : List Byte) : blk.length + raw.length < (stuffCobsFrom blk raw).length := by
  fun_induction stuffCobsFrom blk raw with
  | case1 blk => simp
  | case2 blk rest ih | case3 blk b rest hterm hfull ih | case4 blk b rest hterm hfull ih =>
    simp only [List.length_append, List.length_cons, List.length_nil, codedBlock_length] at ih ⊢
    omega

theorem stuffCobsFrom_ne_nil (blk raw : List Byte) : stuffCobsFrom blk raw ≠ [] :=
  List.ne_nil_of_length_pos (Nat.zero_lt_of_lt (length_lt_stuffCobsFrom blk raw))

theorem terminator_notMem_stuffCobsFrom {blk : List Byte} (raw : List Byte) (hlen : blk.length < 254)
    (hfree : terminator ∉ blk) : terminator ∉ stuffCobsFrom blk raw := by
  fun_induction stuffCobsFrom blk raw with
  | case1 blk => exact terminator_notMem_codedBlock hlen.le hfree
  | case2 blk rest ih =>
    exact List.not_mem_append (terminator_notMem_codedBlock hlen.le hfree) (ih (by simp) (by simp))
  | case3 blk b rest hterm hfull ih =>
    refine List.not_mem_append (terminator_notMem_codedBlock (by simp [hfull]) ?_) (ih (by simp) (by simp))
    simp [hfree, Ne.symm hterm]
  | case4 blk b rest hterm hfull ih => exact ih (by simp; omega) (by simp [hfree, Ne.symm hterm])

theorem unstuffCobsFrom_stuffCobsFrom {blk : List Byte} (raw : List Byte) (hlen : blk.length < 254) (fuel : Nat)
    (hfuel : (stuffCobsFrom blk raw).length ≤ fuel) :
    unstuffCobsFrom fuel (stuffCobsFrom blk raw) = some (blk ++ raw) := by
  fun_induction stuffCobsFrom blk raw generalizing fuel with
  | case1 blk => simpa using unstuffCobsFrom_codedBlock hlen.le (Nat.zero_lt_of_lt hfuel)
  | case2 blk rest ih =>
    simpa [hlen.ne] using
      unstuffCobsFrom_codedBlock_append hlen.le (stuffCobsFrom_ne_nil [] rest) (ih (by simp)) hfuel
  | case3 blk b rest hterm hfull ih =>
    have hblk : (blk ++ [b]).length = 254 := by simpa using hfull
    simpa [hblk] using
      unstuffCobsFrom_codedBlock_append hblk.le (stuffCobsFrom_ne_nil [] rest) (ih (by simp)) hfuel
  | case4 blk b rest hterm hfull ih => simpa using ih (by simp; omega) fuel hfuel

/-! ### The contract of `StuffR` (R102, R125) -/

theorem finalBlockCobsr_ne_nil (z : Byte) (blk : List Byte) : finalBlockCobsr z blk ≠ [] := by
  rw [finalBlockCobsr]
  split_ifs
  · exact List.cons_ne_nil _ _
  · exact List.cons_ne_nil _ _

theorem stuffCobsrFrom_ne_nil (z : Byte) (blk raw : List Byte) : stuffCobsrFrom z blk raw ≠ [] := by
  fun_induction stuffCobsrFrom z blk raw with
  | case1 z blk => exact finalBlockCobsr_ne_nil z blk
  | case2 z blk rest ih | case3 z blk b rest hterm hfull ih => exact List.cons_ne_nil _ _
  | case4 z blk b rest hterm hfull ih => exact ih

theorem terminator_notMem_finalBlockCobsr {blk : List Byte} (z : Byte) (hlen : blk.length ≤ 254)
    (hfree : terminator ∉ blk) : terminator ∉ finalBlockCobsr z blk := by
  rw [finalBlockCobsr]
  split_ifs with hplain
  · exact terminator_notMem_codedBlock hlen hfree
  · refine List.not_mem_cons_of_ne_of_not_mem ?_ fun hmem => hfree (List.mem_of_mem_dropLast hmem)
    rintro rfl
    exact hplain (Nat.succ_pos _)

/-- A block of `StuffR` holds 254 bytes only at the end of the raw bytes. -/
theorem room_of_not_full {blk rest : List Byte} {b : Byte} (hlt : blk.length < 254)
    (hfull : ¬(blk.length + 1 = 254 ∧ rest ≠ [])) :
    (blk ++ [b]).length ≤ 254 ∧ (rest ≠ [] → (blk ++ [b]).length < 254) := by
  rw [List.length_append, List.length_singleton]
  exact ⟨hlt, fun hrest => lt_of_le_of_ne hlt fun heq => hfull ⟨heq, hrest⟩⟩

theorem terminator_notMem_stuffCobsrFrom {z : Byte} {blk raw : List Byte} (hlen : blk.length ≤ 254)
    (hroom : raw ≠ [] → blk.length < 254) (hfree : terminator ∉ blk) : terminator ∉ stuffCobsrFrom z blk raw := by
  fun_induction stuffCobsrFrom z blk raw with
  | case1 z blk => exact terminator_notMem_finalBlockCobsr z hlen hfree
  | case2 z blk rest ih =>
    exact List.not_mem_append (terminator_notMem_codedBlock hlen hfree) (ih (by simp) (by simp) (by simp))
  | case3 z blk b rest hterm hfull ih =>
    refine List.not_mem_append (terminator_notMem_codedBlock (by simp [hfull.1]) ?_) (ih (by simp) (by simp) (by simp))
    simp [hfree, Ne.symm hterm]
  | case4 z blk b rest hterm hfull ih =>
    obtain ⟨hlen', hroom'⟩ := room_of_not_full (hroom (List.cons_ne_nil b rest)) hfull
    exact ih hlen' hroom' (by simp [hfree, Ne.symm hterm])

theorem unstuffCobsrFrom_stuffCobsrFrom {z : Byte} {blk raw : List Byte} (hlen : blk.length ≤ 254)
    (hroom : raw ≠ [] → blk.length < 254) (hlast : raw = [] → z = blk.getLastD terminator) (fuel : Nat)
    (hfuel : (stuffCobsrFrom z blk raw).length ≤ fuel) :
    unstuffCobsrFrom fuel (stuffCobsrFrom z blk raw) = blk ++ raw := by
  fun_induction stuffCobsrFrom z blk raw generalizing fuel with
  | case1 z blk =>
    have hpos := (List.length_pos_iff.mpr (finalBlockCobsr_ne_nil z blk)).trans_le hfuel
    simpa [hlast rfl] using unstuffCobsrFrom_finalBlockCobsr hlen hpos
  | case2 z blk rest ih =>
    simpa [(hroom (List.cons_ne_nil _ _)).ne] using
      unstuffCobsrFrom_codedBlock_append hlen (stuffCobsrFrom_ne_nil _ [] rest) (ih (by simp) (by simp) (by simp)) hfuel
  | case3 z blk b rest hterm hfull ih =>
    have hblk : (blk ++ [b]).length = 254 := by simpa using hfull.1
    simpa [hblk] using
      unstuffCobsrFrom_codedBlock_append hblk.le (stuffCobsrFrom_ne_nil b [] rest)
        (ih (by simp) (by simp) fun hrest => absurd hrest hfull.2) hfuel
  | case4 z blk b rest hterm hfull ih =>
    obtain ⟨hlen', hroom'⟩ := room_of_not_full (hroom (List.cons_ne_nil b rest)) hfull
    simpa using ih hlen' hroom' (by simp) fuel hfuel

/-! ### The contract for COBS and COBS/R (R102) -/

theorem terminator_notMem_stuff (alg : StuffAlg) (raw : List Byte) : terminator ∉ stuff alg raw := by
  cases alg with
  | cobs => exact terminator_notMem_stuffCobsFrom raw (by simp) (by simp)
  | cobsr => exact terminator_notMem_stuffCobsrFrom (by simp) (by simp) (by simp)

theorem unstuff_stuff (alg : StuffAlg) (raw : List Byte) : unstuff alg (stuff alg raw) = some raw := by
  cases alg with
  | cobs => exact unstuffCobsFrom_stuffCobsFrom raw (by simp) _ le_rfl
  | cobsr => exact congrArg some (unstuffCobsrFrom_stuffCobsrFrom (by simp) (by simp) (by simp) _ le_rfl)

/-- Settles O39: by induction over the raw bytes, a block at a time; the last block of COBS/R is the case apart. -/
theorem stuffingMeetsItsContract : Obligations.StuffingMeetsItsContract :=
  fun alg r => ⟨fun _ hb heq => terminator_notMem_stuff alg r (heq ▸ hb), unstuff_stuff alg r⟩

/-! ### How long a body can be for what it unstuffs to (R107, R126) -/

/-- `UnstuffR` differs from `Unstuff` only where `Unstuff` fails (R126). -/
theorem unstuffCobsrFrom_of_unstuffCobsFrom (fuel : Nat) (body : List Byte) :
    ∀ raw ∈ unstuffCobsFrom fuel body, unstuffCobsrFrom fuel body = raw := by
  fun_induction unstuffCobsFrom fuel body with
  | case1 fuel => simp [unstuffCobsrFrom]
  | case2 code rest | case3 fuel code rest n hshort => simp
  | case4 fuel code rest n hlong implied ih =>
    intro raw h
    obtain ⟨out, hout, rfl⟩ := Option.map_eq_some_iff.mp h
    obtain hmore | hlast := (Nat.not_lt.mp hlong).lt_or_eq
    · simp [unstuffCobsrFrom, implied, n, hmore, ih out hout]
    · have hnil : out = [] := by simpa [hlast, unstuffCobsFrom] using hout.symm
      simp [unstuffCobsrFrom, implied, n, ← hlast, hnil]

/-- A code byte adds one byte to the body, which the implied zero pays for, or the code stands for 254 data bytes. -/
theorem length_le_of_unstuffCobsrFrom {fuel : Nat} {body : List Byte} (hfuel : body.length ≤ fuel) :
    body.length ≤ (unstuffCobsrFrom fuel body).length + (unstuffCobsrFrom fuel body).length / 254 + 1 := by
  fun_induction unstuffCobsrFrom fuel body with
  | case1 fuel => simp
  | case2 code rest => simp at hfuel
  | case3 fuel code rest n hmore implied ih =>
    rw [List.length_cons, Nat.succ_le_succ_iff] at hfuel
    have hpaid : implied.length = 1 ∨ implied.length = 0 ∧ n = 254 := by
      by_cases hcode : code = 255#8
      · simp [implied, n, hcode]
      · simp [implied, hcode]
    have hout := ih (by rw [List.length_drop]; omega)
    simp only [List.length_append, List.length_cons, List.length_take, List.length_drop] at hout ⊢
    omega
  | case4 fuel code rest n hlong hshort =>
    rw [List.length_append, List.length_singleton, List.length_cons]
    omega
  | case5 fuel code rest n hlong hshort => simp

theorem length_le_of_unstuff {alg : StuffAlg} {body raw : List Byte} (h : unstuff alg body = some raw) :
    body.length ≤ raw.length + raw.length / 254 + 1 := by
  have hraw : unstuffCobsr body = raw := by
    cases alg with
    | cobs => exact unstuffCobsrFrom_of_unstuffCobsFrom _ body raw h
    | cobsr => exact Option.some.inj h
  exact hraw ▸ length_le_of_unstuffCobsrFrom le_rfl

/-- Settles O42: where `Unstuff` does not fail the two loops take the same turns. -/
theorem cobsrExtendsCobs : Obligations.CobsrExtendsCobs :=
  ⟨fun body raw _ h => unstuffCobsrFrom_of_unstuffCobsFrom _ body raw h,
    fun raw => stuffCobsrFrom_length_le terminator [] raw (by simp)⟩

/-! ### The length of `Stuff(r)` (R104) -/

/-- No block is full, so each terminator of the raw bytes pays for a code. -/
theorem length_stuffCobsFrom_of_runs {blk raw : List Byte} (hfree : terminator ∉ blk)
    (hruns : ∀ run, run <:+: blk ++ raw → 254 ≤ run.length → terminator ∈ run) :
    (stuffCobsFrom blk raw).length = blk.length + raw.length + 1 := by
  fun_induction stuffCobsFrom blk raw with
  | case1 blk => simp
  | case2 blk rest ih =>
    have hrest := ih (by simp) fun run hrun => hruns run (hrun.trans ⟨blk ++ [terminator], [], by simp⟩)
    rw [List.length_append, hrest, codedBlock_length, List.length_cons, List.length_nil]
    omega
  | case3 blk b rest hterm hfull ih =>
    have hmem := hruns (blk ++ [b]) ⟨[], rest, by simp⟩ (by simp [hfull])
    simp [hfree, Ne.symm hterm] at hmem
  | case4 blk b rest hterm hfull ih =>
    have hrest := ih (by simp [hfree, Ne.symm hterm]) (by simpa using hruns)
    rw [hrest, List.length_append, List.length_cons, List.length_nil, List.length_cons]
    omega

/-- Every block but the last is full. -/
theorem length_stuffCobsFrom_of_terminator_notMem {blk raw : List Byte} (hlen : blk.length < 254)
    (hfree : terminator ∉ raw) :
    (stuffCobsFrom blk raw).length = blk.length + raw.length + (blk.length + raw.length) / 254 + 1 := by
  fun_induction stuffCobsFrom blk raw with
  | case1 blk => simp [Nat.div_eq_of_lt hlen]
  | case2 blk rest ih => simp at hfree
  | case3 blk b rest hterm hfull ih =>
    have hrest := ih (by simp) (List.not_mem_of_not_mem_cons hfree)
    simp only [List.length_append, List.length_cons, List.length_nil, codedBlock_length] at hrest ⊢
    omega
  | case4 blk b rest hterm hfull ih =>
    have hrest := ih (by simp; omega) (List.not_mem_of_not_mem_cons hfree)
    simp only [List.length_append, List.length_cons, List.length_nil] at hrest ⊢
    omega

/-- The stream of a legal payload is its longest body and the terminator at most (R104, R127). -/
theorem encodeFrame_length_le (c : Config) (id : Byte) {payload : List Byte}
    (hlegal : payload.length ≤ c.maxPayload.val) : (encodeFrame c id payload).length ≤ rxCap c + 1 := by
  have hstuff := stuff_length_le c.stuffAlg (rawFrame c ⟨id, payload, frameChecksum c id payload⟩)
  rw [rawFrame_length] at hstuff
  dsimp only at hstuff
  rw [encodeFrame, List.length_append, List.length_singleton, rxCap, rawMax]
  omega

/-- Settles O40: each length by induction over the raw bytes, from an empty block. -/
theorem cobsLengthBounds : Obligations.CobsLengthBounds := by
  refine ⟨fun r => ⟨?_, stuff_length_le .cobs r, fun hruns => ?_, fun hfree => ?_⟩,
    fun c id _ _ hlegal => encodeFrame_length_le c id hlegal⟩
  · simpa [stuffCobs] using length_lt_stuffCobsFrom [] r
  · have hinfix : ∀ run, run <:+: [] ++ r → 254 ≤ run.length → terminator ∈ run :=
      fun run ⟨before, after, heq⟩ => hruns before run after heq.symm
    simpa [stuffCobs] using length_stuffCobsFrom_of_runs (by simp) hinfix
  · simpa [stuffCobs] using length_stuffCobsFrom_of_terminator_notMem (blk := []) (by simp) hfree

/-! ### `DecodeFrame` by its checks, and its frames (R110, R112) -/

theorem cksBytes_cksValue (o : CksumOrder) (k0 k1 : Byte) : cksBytes o (cksValue o k0 k1) = [k0, k1] := by
  cases o with
  | le => exact le16_unle16 k0 k1
  | be => exact be16_unle16 k1 k0

theorem decodeFrame_of_unstuff {c : Config} {body raw : List Byte} (hfree : terminator ∉ body)
    (hraw : unstuff c.stuffAlg body = some raw) : decodeFrame c (body ++ [terminator]) = checkRaw c raw := by
  rw [decodeFrame_append_terminator, if_neg hfree, hraw]

theorem checkRaw_of_legal (c : Config) (k0 k1 id : Byte) {payload : List Byte}
    (hlegal : payload.length ≤ c.maxPayload.val) :
    checkRaw c (k0 :: k1 :: id :: payload) =
      if cksValue c.cksumOrder k0 k1 = frameChecksum c id payload
      then .frame ⟨id, payload, cksValue c.cksumOrder k0 k1⟩
      else .checksumError (cksValue c.cksumOrder k0 k1) (frameChecksum c id payload) := by
  have hfits : ¬payload.length + 3 > rawMax c := Nat.not_lt.mpr (Nat.add_le_add_right hlegal 3)
  simp only [checkRaw, if_neg hfits, ne_eq, ite_not]

theorem checkRaw_of_short {c : Config} {raw : List Byte} (hshort : raw.length < 3) :
    checkRaw c raw = .formatError .tooShort := by
  obtain ⟨-, hres⟩ | ⟨-, hlong, -⟩ | ⟨k0, k1, id, payload, rfl, -⟩ := checkRaw_cases c raw
  · exact hres
  · omega
  · simp only [List.length_cons] at hshort
    omega

theorem checkRaw_of_long {c : Config} {raw : List Byte} (hlong : rawMax c < raw.length) :
    checkRaw c raw = .formatError .tooLong := by
  obtain ⟨hshort, -⟩ | ⟨-, -, hres⟩ | ⟨k0, k1, id, payload, rfl, hlegal, -⟩ := checkRaw_cases c raw
  · rw [rawMax] at hlong
    omega
  · exact hres
  · simp only [rawMax, List.length_cons] at hlong
    omega

theorem checkRaw_eq_frame_iff {c : Config} {raw : List Byte} {f : Frame} :
    checkRaw c raw = .frame f ↔
      raw = rawFrame c f ∧ f.payload.length ≤ c.maxPayload.val ∧ f.checksum = frameChecksum c f.id f.payload := by
  constructor
  · intro h
    obtain ⟨-, hres⟩ | ⟨-, -, hres⟩ | ⟨k0, k1, id, payload, rfl, hlegal, hres⟩ := checkRaw_cases c raw
    · simp [hres] at h
    · simp [hres] at h
    · rw [hres] at h
      split_ifs at h with hsum
      obtain rfl := DecodeResult.frame.inj h
      exact ⟨by simp [rawFrame, cksBytes_cksValue], hlegal, hsum⟩
  · rintro ⟨rfl, hlegal, hsum⟩
    obtain ⟨k0, k1, hbytes, hvalue⟩ := cksValue_cksBytes c.cksumOrder f.checksum
    simp [rawFrame, hbytes, checkRaw_of_legal c k0 k1 f.id hlegal, hvalue, ← hsum]

/-- The accepted streams: a body without the terminator that unstuffs to a legal raw frame with its own checksum. -/
theorem decodeFrame_eq_frame_iff {c : Config} {s : List Byte} {f : Frame} :
    decodeFrame c s = .frame f ↔
      (∃ body, s = body ++ [terminator] ∧ terminator ∉ body ∧ unstuff c.stuffAlg body = some (rawFrame c f)) ∧
        f.payload.length ≤ c.maxPayload.val ∧ f.checksum = frameChecksum c f.id f.payload := by
  constructor
  · intro h
    rw [decodeFrame] at h
    split_ifs at h with hlast hfree
    cases hraw : unstuff c.stuffAlg s.dropLast with
    | none => simp [hraw] at h
    | some raw =>
      obtain ⟨rfl, hlegal, hsum⟩ := checkRaw_eq_frame_iff.mp (by simpa [hraw] using h)
      have hs := (List.dropLast_append_getLast? _ (not_not.mp hlast)).symm
      exact ⟨⟨s.dropLast, hs, hfree, hraw⟩, hlegal, hsum⟩
  · rintro ⟨⟨body, rfl, hfree, hraw⟩, hlegal, hsum⟩
    rw [decodeFrame_of_unstuff hfree hraw, checkRaw_eq_frame_iff]
    exact ⟨rfl, hlegal, hsum⟩

theorem decodeFrame_encodeFrame {c : Config} {id : Byte} {payload : List Byte}
    (hlegal : payload.length ≤ c.maxPayload.val) :
    decodeFrame c (encodeFrame c id payload) = .frame ⟨id, payload, frameChecksum c id payload⟩ :=
  decodeFrame_eq_frame_iff.mpr
    ⟨⟨_, rfl, terminator_notMem_stuff _ _, unstuff_stuff _ _⟩, hlegal, rfl⟩

/-- Settles O37: the body unstuffs to the raw frame, whose checks all pass. -/
theorem decodeOfEncodeIsTheFrame : Obligations.DecodeOfEncodeIsTheFrame :=
  fun _ _ _ hlegal => decodeFrame_encodeFrame hlegal

theorem length_le_rxCap {c : Config} {body raw : List Byte} (hraw : unstuff c.stuffAlg body = some raw)
    (hlegal : raw.length ≤ rawMax c) : body.length ≤ rxCap c := by
  have hlen := length_le_of_unstuff hraw
  rw [rxCap]
  omega

/-- Settles O44: what the checks of `DecodeFrame` say of a stream that passes them. -/
theorem acceptedStreamsAreFrames : Obligations.AcceptedStreamsAreFrames := by
  intro c s f h
  obtain ⟨⟨body, hs, hfree, hraw⟩, hlegal, hsum⟩ := decodeFrame_eq_frame_iff.mp h
  have hcap := length_le_rxCap hraw (by rw [rawFrame_length, rawMax]; omega)
  refine ⟨hlegal, hsum, ⟨body, hs, hfree, hcap, hraw⟩, ?_⟩
  rw [decodeFrame_encodeFrame hlegal, ← hsum]

/-- Settles O41: a frame's raw form has at most `RawMax` bytes, so its body has at most `RxCap`. -/
theorem longBodiesNeverDecode : Obligations.LongBodiesNeverDecode := by
  refine ⟨fun alg body raw _ h => length_le_of_unstuff h, fun c body _ hlong => ⟨?_, fun f h => ?_⟩⟩
  · cases hraw : unstuff c.stuffAlg body with
    | none => exact .inl rfl
    | some raw =>
      have hraw_long : rawMax c < raw.length := by
        by_contra hle
        exact hlong.not_ge (length_le_rxCap hraw (Nat.not_lt.mp hle))
      exact .inr ⟨raw, rfl, hraw_long⟩
  · obtain ⟨-, -, ⟨body', hbody, -, hcap, -⟩, -⟩ := acceptedStreamsAreFrames c _ f h
    obtain rfl := List.append_cancel_right hbody
    exact hlong.not_ge hcap

/-- Settles O43: the checks in their order, each on a stream that passes those before it. -/
theorem decodeReportsTheFirstFailingCheck : Obligations.DecodeReportsTheFirstFailingCheck := by
  refine fun c s => ⟨fun h => ?_, ?_⟩
  · obtain rfl | ⟨front, last, rfl, hlast⟩ := h
    · rfl
    · simp [decodeFrame, hlast]
  · rintro body rfl
    refine ⟨fun hmem => by rw [decodeFrame_append_terminator, if_pos hmem],
      fun hfree => ⟨fun hraw => by rw [decodeFrame_append_terminator, if_neg hfree, hraw], fun raw hraw => ?_⟩⟩
    rw [decodeFrame_of_unstuff hfree hraw]
    refine ⟨checkRaw_of_short, checkRaw_of_long, ?_⟩
    rintro k0 k1 id payload rfl hlegal
    rw [checkRaw_of_legal c k0 k1 id (by simpa using hlegal)]
    exact ⟨fun hne => if_neg hne, fun heq => if_pos heq⟩

/-! ### The terminator in encoded streams (R113, R116) -/

/-- Settles O38: the stuffed bytes hold no terminator, and one follows them. -/
theorem encodedStreamHasOneTerminator : Obligations.EncodedStreamHasOneTerminator := by
  refine ⟨rfl, fun c id payload => ⟨List.getLast?_concat, fun k hk h => ?_⟩⟩
  rw [encodeFrame, List.length_append, List.length_singleton, Nat.add_lt_add_iff_right] at hk
  rw [encodeFrame, List.getElem?_append_left hk] at h
  exact terminator_notMem_stuff _ _ (List.mem_of_getElem? h)

theorem cutAtTerminators_append {body : List Byte} (hfree : terminator ∉ body) (piece rest : List Byte) :
    cutAtTerminators piece (body ++ [terminator] ++ rest) =
      (piece ++ body ++ [terminator]) :: cutAtTerminators [] rest := by
  induction body generalizing piece with
  | nil => simp [cutAtTerminators]
  | cons b body ih =>
    simpa [cutAtTerminators, (List.ne_of_not_mem_cons hfree).symm] using
      ih (List.not_mem_of_not_mem_cons hfree) (piece ++ [b])

theorem cutAtTerminators_flatMap_encodeMessage (c : Config) (messages : List (Byte × List Byte)) :
    cutAtTerminators [] (messages.flatMap (encodeMessage c)) = messages.map (encodeMessage c) := by
  induction messages with
  | nil => rfl
  | cons m messages ih =>
    rw [List.flatMap_cons, List.map_cons, ← ih]
    exact cutAtTerminators_append (terminator_notMem_stuff _ _) [] _

/-- What is left of an encoded stream from any of its bytes on ends in its only terminator. -/
theorem exists_body_of_encodeMessage_eq {c : Config} {m : Byte × List Byte} {missed tail : List Byte}
    (h : encodeMessage c m = missed ++ tail) (htail : tail ≠ []) :
    ∃ body, tail = body ++ [terminator] ∧ terminator ∉ body := by
  obtain hnil | ⟨body, hbody, hsuffix⟩ := List.suffix_concat_iff.mp (h ▸ List.suffix_append missed tail)
  · exact absurd hnil htail
  · exact ⟨body, hbody, fun hmem => terminator_notMem_stuff _ _ (hsuffix.mem hmem)⟩

/-- Settles O45: the first cut is at the only terminator of the first stream, and the rest is cut the same way. -/
theorem streamsAreSelfDelimiting : Obligations.StreamsAreSelfDelimiting := by
  refine fun c messages => ⟨cutAtTerminators_flatMap_encodeMessage c messages, fun m missed tail h htail => ?_⟩
  obtain ⟨body, rfl, hfree⟩ := exists_body_of_encodeMessage_eq h htail
  rw [cutAtTerminators_append hfree, cutAtTerminators_flatMap_encodeMessage, List.nil_append]

/-! ### FRM.ENCODE and FRM.DECODE (R120, R121) -/

theorem exec_frmEncode_of_legal (id : Byte) {payload : List Byte} {s : State}
    (hlegal : payload.length ≤ s.cfg.maxPayload.val) :
    exec (.frmEncode (id :: payload)) s = .next (s.emit (responsePacket .ok (encodeFrame s.cfg id payload))) := by
  rw [exec, execFrmEncode, idAndPayload_eq_some.mpr ⟨rfl, hlegal⟩]
  rfl

theorem exec_frmDecode_of_frame {stream : List Byte} {s : State} {f : Frame} (h : decodeFrame s.cfg stream = .frame f) :
    exec (.frmDecode stream) s = .next (s.emit (responsePacket .ok (rawFrame s.cfg f))) := by
  rw [exec, execFrmDecode, h]
  rfl

/-- Settles O25: an operand is an id with a legal payload, or BAD_LENGTH is the answer. -/
theorem frmEncodeAnswersTheStream : Obligations.FrmEncodeAnswersTheStream := by
  refine fun opd s => ⟨fun hbad => exec_of_not_lenAccepted (decide_eq_false (by omega)), ?_⟩
  rintro id payload rfl hlen
  exact exec_frmEncode_of_legal id (by simpa using hlen)

/-- Settles O26: one answer for each of the three outcomes. -/
theorem frmDecodeAnswersTheOutcome : Obligations.FrmDecodeAnswersTheOutcome := by
  refine fun opd s => ⟨?_, rfl⟩
  rw [exec, execFrmDecode]
  cases decodeFrame s.cfg opd with
  | frame f => simp [respondDecode, respond, rawFrame]
  | formatError cause => rfl
  | checksumError received computed => rfl

/-- Settles O27: FRM.DECODE in a block built alike decodes the stream to the frame it was made of. -/
theorem frmDecodeUndoesFrmEncode : Obligations.FrmDecodeUndoesFrmEncode := by
  intro id payload s s' hcfg hlegal
  have hdec : decodeFrame s'.cfg (encodeFrame s.cfg id payload) =
      .frame ⟨id, payload, frameChecksum s.cfg id payload⟩ := hcfg ▸ decodeFrame_encodeFrame hlegal
  refine ⟨_, encodeFrame_length_le s.cfg id hlegal, exec_frmEncode_of_legal id hlegal, ?_⟩
  rw [exec_frmDecode_of_frame hdec, ← hcfg]
  rfl

end Sys2Proof.Machine

/-! Proofs of the statements of 42_crc_engines.md: streaming (R145) and the reflected formulation (R146) of the
parametric CRC, the rules of the engines' commands (R160 to R165), and messages split over several commands (R153). -/

namespace Sys2Proof.Machine

/-- Settles O46: `crcUpdate_append`, by induction over the first sequence. -/
theorem crcUpdateIsStreaming : Obligations.CrcUpdateIsStreaming :=
  fun _ P s a b => ⟨crcUpdate_append P s a b, crcUpdate_nil P s⟩

/-! ### Reflection of the operations of the byte step (R146) -/

theorem reflect_xor {W : Nat} (v w : BitVec W) : reflect (v ^^^ w) = reflect v ^^^ reflect w := by
  refine BitVec.eq_of_getLsbD_eq fun i hi => ?_
  simp only [BitVec.getLsbD_xor, getLsbD_reflect _ hi]

/-- Reflection turns a shift towards bit `W - 1` into the shift towards bit 0. -/
theorem reflect_shiftLeft {W : Nat} (v : BitVec W) (n : Nat) : reflect (v <<< n) = reflect v >>> n := by
  refine BitVec.eq_of_getLsbD_eq fun i hi => ?_
  rw [BitVec.getLsbD_ushiftRight, reflect, reflect, BitVec.getLsbD_reverse, BitVec.getLsbD_reverse,
    BitVec.getMsbD_shiftLeft, Nat.add_comm]

/-- The bit that the byte step shifts out is bit 0 of the reflected register. -/
theorem getLsbD_reflect_zero {W : Nat} (v : BitVec W) : (reflect v).getLsbD 0 = v.msb := by
  rw [reflect, BitVec.getLsbD_reverse, BitVec.msb_eq_getMsbD_zero]

/-- A reflected byte in the top eight bits is, in the reflected register, the byte itself in the low eight bits. -/
theorem reflect_setWidth_shiftLeft {W : Nat} (hW : 8 ≤ W) (b : Byte) :
    reflect ((reflect b).setWidth W <<< (W - 8)) = b.setWidth W := by
  refine BitVec.eq_of_getLsbD_eq fun i hi => ?_
  rw [reflect_shiftLeft, BitVec.getLsbD_ushiftRight, BitVec.getLsbD_setWidth, decide_eq_true hi, Bool.true_and]
  by_cases hbyte : i < 8
  · have htop : W - 8 + i < W := by omega
    have hbit : W - 1 - (W - 8 + i) = 8 - 1 - i := by omega
    have hback : 8 - 1 - (8 - 1 - i) = i := by omega
    rw [getLsbD_reflect _ htop, hbit, BitVec.getLsbD_setWidth, getLsbD_reflect _ (by omega), hback,
      decide_eq_true (by omega), Bool.true_and]
  · rw [BitVec.getLsbD_of_ge _ _ (by omega), BitVec.getLsbD_of_ge _ _ (by omega)]

/-- One of the eight shifts of `ByteR`. -/
def shiftR {W : Nat} (rpoly t : BitVec W) : BitVec W :=
  if t.getLsbD 0 then (t >>> 1) ^^^ rpoly else t >>> 1

theorem byteR_eq_iterate_shiftR {W : Nat} (rpoly t : BitVec W) (b : Byte) :
    byteR rpoly t b = (shiftR rpoly)^[8] (t ^^^ b.setWidth W) := rfl

theorem reflect_crcShift {W : Nat} (P : CrcParams W) (s : BitVec W) :
    reflect (crcShift P s) = shiftR (reflect P.poly) (reflect s) := by
  rw [crcShift, shiftR, getLsbD_reflect_zero]
  split_ifs
  · rw [reflect_xor, reflect_shiftLeft]
  · rw [reflect_shiftLeft]

section
variable {W : Nat} {P : CrcParams W}

theorem reflect_crcByte (hW : 8 ≤ W) (hin : P.refin = true) (s : BitVec W) (b : Byte) :
    reflect (crcByte P s b) = byteR (reflect P.poly) (reflect s) b := by
  have hshifts : Function.Semiconj reflect (crcShift P)^[8] (shiftR (reflect P.poly))^[8] :=
    Function.Semiconj.iterate_right (reflect_crcShift P) 8
  rw [byteR_eq_iterate_shiftR, ← reflect_setWidth_shiftLeft hW b, ← reflect_xor, ← hshifts.eq, crcByte, hin]
  rfl

theorem reflect_crcUpdate (hW : 8 ≤ W) (hin : P.refin = true) (s : BitVec W) (m : List Byte) :
    reflect (crcUpdate P s m) = m.foldl (byteR (reflect P.poly)) (reflect s) := by
  induction m generalizing s with
  | nil => rfl
  | cons b m ih => rw [crcUpdate_cons, ih, reflect_crcByte hW hin, List.foldl_cons]

theorem crcFinalize_of_refout (hout : P.refout = true) (s : BitVec W) :
    crcFinalize P s = reflect s ^^^ P.xorout := by
  rw [crcFinalize, if_pos hout]

end

/-- Settles O47: reflection carries one shift, hence the byte step, hence a whole message over to `ByteR`. -/
theorem reflectedCrcIsEquivalent : Obligations.ReflectedCrcIsEquivalent := by
  refine fun W P hW hin hout => ⟨reflect_crcByte hW hin, crcFinalize_of_refout hout, fun m => ?_⟩
  rw [crc, crcFinalize_of_refout hout, reflect_crcUpdate hW hin, crcInit]

/-! ### The commands, each by its own rule (R160 to R165) -/

section
variable {s : State}

theorem exec_c16Update_of_not_valid (hv : s.c16Valid = false) (opd : List Byte) :
    exec (.c16Update opd) s = notInit s := by
  rw [exec, execC16Update, if_neg (Bool.eq_false_iff.mp hv)]

theorem exec_c16Final_nil_of_not_valid (hv : s.c16Valid = false) : exec (.c16Final []) s = notInit s :=
  if_neg (Bool.eq_false_iff.mp hv)

theorem exec_c16Final_nil_of_valid (hv : s.c16Valid = true) :
    exec (.c16Final []) s = .next (s.emit (responsePacket .ok (le16 (crcFinalize s.cfg.p16 s.c16State)))) :=
  if_pos hv

theorem exec_c32Update_of_not_valid (hv : s.c32Valid = false) (opd : List Byte) :
    exec (.c32Update opd) s = notInit s := by
  rw [exec, execC32Update, if_neg (Bool.eq_false_iff.mp hv)]

theorem exec_c32Final_nil_of_not_valid (hv : s.c32Valid = false) : exec (.c32Final []) s = notInit s :=
  if_neg (Bool.eq_false_iff.mp hv)

theorem exec_c32Final_nil_of_valid (hv : s.c32Valid = true) :
    exec (.c32Final []) s = .next (s.emit (responsePacket .ok (le32 (crcFinalize s.cfg.p32 s.c32State)))) :=
  if_pos hv

end

/-- Settles O28: a wrong length by the rule of every command, each other form by its own. -/
theorem c16CommandsFollowTheirRules : Obligations.C16CommandsFollowTheirRules := by
  refine fun opd s => ⟨fun hlen => exec_of_not_lenAccepted (decide_eq_false hlen), ?init,
    fun hv => exec_c16Update_of_not_valid hv opd, fun hv => exec_c16Update_of_valid hv opd,
    fun hlen => exec_of_not_lenAccepted (decide_eq_false hlen), ?notInit, ?final⟩
  all_goals
    intro hlen
    obtain rfl := List.length_eq_zero_iff.mp hlen
  case init => exact exec_c16Init_nil s
  case notInit => exact exec_c16Final_nil_of_not_valid
  case final => exact exec_c16Final_nil_of_valid

/-- Settles O29: a wrong length by the rule of every command, each other form by its own. -/
theorem c32CommandsFollowTheirRules : Obligations.C32CommandsFollowTheirRules := by
  refine fun opd s => ⟨fun hlen => exec_of_not_lenAccepted (decide_eq_false hlen), ?init,
    fun hv => exec_c32Update_of_not_valid hv opd, fun hv => exec_c32Update_of_valid hv opd,
    fun hlen => exec_of_not_lenAccepted (decide_eq_false hlen), ?notInit, ?final⟩
  all_goals
    intro hlen
    obtain rfl := List.length_eq_zero_iff.mp hlen
  case init => exact exec_c32Init_nil s
  case notInit => exact exec_c32Final_nil_of_not_valid
  case final => exact exec_c32Final_nil_of_valid

/-! ### A message split over several UPDATEs (R153, R82) -/

theorem execAll_cons_of_next {i : Instr} {s t : State} (h : exec i s = .next t) (rest : List Instr) :
    execAll (i :: rest) s = execAll rest t := by
  rw [execAll, h]

theorem execAll_append_of_next {a : List Instr} {s t : State} (h : execAll a s = .next t) (b : List Instr) :
    execAll (a ++ b) s = execAll b t := by
  induction a generalizing s with
  | nil => rw [List.nil_append, Host.Outcome.next.inj h]
  | cons i rest ih =>
    obtain ⟨s', hexec⟩ := exec_completes i s
    rw [execAll_cons_of_next hexec] at h
    rw [List.cons_append, execAll_cons_of_next hexec, ih h]

section
variable {W : Nat} (params : Config → CrcParams W) (valid : State → Bool) (register : State → BitVec W)

/-- From `s` to `t` the engine has given `n` responses OK with no data, and is left valid with its running register at
the update of `start` by the bytes `m`. -/
structure Absorbs (s : State) (start : BitVec W) (m : List Byte) (n : Nat) (t : State) : Prop where
  cfg_eq : t.cfg = s.cfg
  isValid : valid t = true
  register_eq : register t = crcUpdate (params s.cfg) start m
  output_eq : t.output = s.output ++ List.replicate n [0x00, 0x00, 0x00]

variable {params valid register}

theorem Absorbs.trans {s t u : State} {start : BitVec W} {m m' : List Byte} {n n' : Nat}
    (h : Absorbs params valid register s start m n t) (h' : Absorbs params valid register t (register t) m' n' u) :
    Absorbs params valid register s start (m ++ m') (n + n') u := by
  refine ⟨h'.cfg_eq.trans h.cfg_eq, h'.isValid, ?_, ?_⟩
  · rw [h'.register_eq, h.cfg_eq, h.register_eq, crcUpdate_append]
  · rw [h'.output_eq, h.output_eq, List.append_assoc, List.replicate_append_replicate]

/-- If one UPDATE absorbs its operand, then one UPDATE for each piece absorbs the pieces in order. -/
theorem execAll_map_update {update : List Byte → Instr}
    (hupdate : ∀ s : State, valid s = true → ∀ piece, ∃ t, exec (update piece) s = .next t ∧
      Absorbs params valid register s (register s) piece 1 t)
    (pieces : List (List Byte)) {s : State} (hv : valid s = true) :
    ∃ t, execAll (pieces.map update) s = .next t ∧
      Absorbs params valid register s (register s) pieces.flatten pieces.length t := by
  induction pieces generalizing s with
  | nil => exact ⟨s, rfl, rfl, hv, rfl, (List.append_nil _).symm⟩
  | cons piece rest ih =>
    obtain ⟨s', hexec, habs⟩ := hupdate s hv piece
    obtain ⟨t, hall, habs'⟩ := ih habs.isValid
    refine ⟨t, ?_, ?_⟩
    · rw [List.map_cons, execAll_cons_of_next hexec, hall]
    · rw [List.flatten_cons, List.length_cons, Nat.add_comm]
      exact habs.trans habs'

/-- The whole message of an engine, from the rules of its three commands. -/
theorem execAll_split_message {init final : Instr} {update : List Byte → Instr} {pack : BitVec W → List Byte}
    (hinit : ∀ s : State, ∃ t, exec init s = .next t ∧
      Absorbs params valid register s (crcInit (params s.cfg)) [] 1 t)
    (hupdate : ∀ s : State, valid s = true → ∀ piece, ∃ t, exec (update piece) s = .next t ∧
      Absorbs params valid register s (register s) piece 1 t)
    (hfinal : ∀ s : State, valid s = true → exec final s =
      .next (s.emit (responsePacket .ok (pack (crcFinalize (params s.cfg) (register s))))))
    (pieces : List (List Byte)) (s : State) :
    ∃ t, execAll (init :: pieces.map update ++ [final]) s = .next t ∧
      t.output = s.output ++ List.replicate (pieces.length + 1) [0x00, 0x00, 0x00] ++
        [responsePacket .ok (pack (crc (params s.cfg) pieces.flatten))] := by
  obtain ⟨s₁, hexec, habs⟩ := hinit s
  obtain ⟨s₂, hall, habs'⟩ := execAll_map_update hupdate pieces habs.isValid
  obtain ⟨hcfg, hv, hreg, hout⟩ := habs.trans habs'
  refine ⟨s₂.emit (responsePacket .ok (pack (crcFinalize (params s₂.cfg) (register s₂)))), ?_, ?_⟩
  · rw [List.cons_append, execAll_cons_of_next hexec, execAll_append_of_next hall,
      execAll_cons_of_next (hfinal s₂ hv), execAll]
  · rw [State.emit_output, hout, hcfg, hreg, List.nil_append, Nat.add_comm, crc]

end

/-- Settles O32: each engine's INIT and UPDATEs absorb the pieces, and its FINAL answers with what was absorbed. -/
theorem splitMessagesHaveTheWholeChecksum : Obligations.SplitMessagesHaveTheWholeChecksum := by
  refine fun pieces s => ⟨?_, ?_⟩
  · exact execAll_split_message (params := Config.p16) (valid := State.c16Valid) (register := State.c16State)
      (fun s => ⟨_, exec_c16Init_nil s, rfl, rfl, rfl, rfl⟩)
      (fun _ hv piece => ⟨_, exec_c16Update_of_valid hv piece, rfl, hv, rfl, rfl⟩)
      (fun _ hv => exec_c16Final_nil_of_valid hv) pieces s
  · exact execAll_split_message (params := Config.p32) (valid := State.c32Valid) (register := State.c32State)
      (fun s => ⟨_, exec_c32Init_nil s, rfl, rfl, rfl, rfl⟩)
      (fun _ hv piece => ⟨_, exec_c32Update_of_valid hv piece, rfl, hv, rfl, rfl⟩)
      (fun _ hv => exec_c32Final_nil_of_valid hv) pieces s

end Sys2Proof.Machine

/-! Proofs of the statements of 43_stream_delimiter.md: the rules of the delimiter's commands (R181, R182), the bounded
buffer against the unbounded one (R183), and resynchronisation (R184). -/

namespace Sys2Proof.Machine

/-! ### The commands, each by its own rule (R181, R182) -/

theorem exec_rxdPush_of_room {b : Byte} {s : State} (hb : b ≠ terminator) (hroom : s.rxdBuf.length < rxCap s.cfg) :
    exec (.rxdPush [b]) s = .next ((s.storeByte b).emit (responsePacket .pending [])) := by
  rw [exec_rxdPush_data hb, pushData, if_pos (chunkHasRoom_iff.mpr hroom), respond]

theorem exec_rxdPush_of_full {b : Byte} {s : State} (hb : b ≠ terminator) (hfull : ¬s.rxdBuf.length < rxCap s.cfg) :
    exec (.rxdPush [b]) s = .next (s.setOverflow.emit (responsePacket .pending [])) := by
  rw [exec_rxdPush_data hb, pushData, if_neg (mt chunkHasRoom_iff.mp hfull), respond]

theorem exec_rxdPush_terminator_of_ovf {s : State} (hovf : s.rxdOvf = true) :
    exec (.rxdPush [terminator]) s =
      .next (s.clearChunk.emit (responsePacket .formatError [Cause.overflow.code])) :=
  if_pos hovf

/-- The chunk with its terminator is answered as FRM.DECODE would answer it, and cleared. -/
theorem exec_rxdPush_terminator_of_not_ovf {s : State} (hovf : s.rxdOvf = false) :
    exec (.rxdPush [terminator]) s = exec (.frmDecode (s.rxdBuf ++ [terminator])) s.clearChunk :=
  if_neg (Bool.eq_false_iff.mp hovf)

theorem checkRaw_formatError_cause {c : Config} {raw : List Byte} {cause : Cause}
    (h : checkRaw c raw = .formatError cause) : cause = .tooShort ∨ cause = .tooLong := by
  obtain ⟨-, hres⟩ | ⟨-, -, hres⟩ | ⟨k0, k1, id, payload, -, -, hres⟩ := checkRaw_cases c raw
  · exact .inl (DecodeResult.formatError.inj (h.symm.trans hres))
  · exact .inr (DecodeResult.formatError.inj (h.symm.trans hres))
  · rw [hres] at h
    split_ifs at h

/-- The causes left for a body without a terminator that is decoded with one. -/
theorem decodeFrame_formatError_cause {c : Config} {body : List Byte} {cause : Cause} (hfree : terminator ∉ body)
    (h : decodeFrame c (body ++ [terminator]) = .formatError cause) :
    cause = .badStuffing ∨ cause = .tooShort ∨ cause = .tooLong := by
  cases hraw : unstuff c.stuffAlg body with
  | none =>
    rw [decodeFrame_append_terminator, if_neg hfree, hraw] at h
    exact .inl (DecodeResult.formatError.inj h).symm
  | some raw => exact .inr (checkRaw_formatError_cause (decodeFrame_of_unstuff hfree hraw ▸ h))

/-- Settles O33: a wrong length by the rule of every command, a data byte by the room in the chunk, a terminator by the
overflow bit. -/
theorem rxdPushFollowsItsRule : Obligations.RxdPushFollowsItsRule := by
  refine ⟨fun opd s hlen => exec_of_not_lenAccepted (decide_eq_false hlen),
    fun b s hb hroom => exec_rxdPush_of_room hb hroom, fun b s hb hfull => exec_rxdPush_of_full hb hfull,
    fun s hovf => exec_rxdPush_terminator_of_ovf hovf, fun s hovf => ?_,
    fun s ⟨_, hfree, _⟩ => ⟨fun h => ?_, fun h => ?_⟩⟩
  · rw [exec_rxdPush_terminator_of_not_ovf hovf]
    exact (frmDecodeAnswersTheOutcome _ s.clearChunk).1
  · simpa using decodeFrame_formatError_cause hfree h
  · simpa using decodeFrame_formatError_cause hfree h

/-- Settles O34: without an operand the chunk is cleared, any other length by the rule of every command. -/
theorem rxdFlushDiscardsTheChunk : Obligations.RxdFlushDiscardsTheChunk := by
  refine fun opd s => ⟨fun hlen => exec_of_not_lenAccepted (decide_eq_false hlen), fun hlen => ?_⟩
  obtain rfl := List.length_eq_zero_iff.mp hlen
  exact exec_rxdFlush_nil s

/-! ### Feeding bytes, one RXD.PUSH for each (R82) -/

/-- Pushing `bytes` in `s` completes in `t`, with the responses given in between; the parameters are kept. -/
structure Feeds (s : State) (bytes : List Byte) (responses : List (List Byte)) (t : State) : Prop where
  feed_eq : feed bytes s = .next t
  cfg_eq : t.cfg = s.cfg
  output_eq : t.output = s.output ++ responses

section
variable {s s' t u : State}

theorem Feeds.nil (s : State) : Feeds s [] [] s :=
  ⟨rfl, rfl, (List.append_nil _).symm⟩

theorem Feeds.trans {bytes bytes' : List Byte} {responses responses' : List (List Byte)}
    (h : Feeds s bytes responses t) (h' : Feeds t bytes' responses' u) :
    Feeds s (bytes ++ bytes') (responses ++ responses') u := by
  refine ⟨?_, h'.cfg_eq.trans h.cfg_eq, ?_⟩
  · rw [feed, List.map_append, execAll_append_of_next h.feed_eq]
    exact h'.feed_eq
  · rw [h'.output_eq, h.output_eq, List.append_assoc]

/-- One push, whose write leaves the parameters and the output alone. -/
theorem Feeds.of_exec {b : Byte} {response : List Byte}
    (hexec : exec (.rxdPush [b]) s = .next (s'.emit response)) (hcfg : s'.cfg = s.cfg)
    (hout : s'.output = s.output) : Feeds s [b] [response] (s'.emit response) :=
  ⟨execAll_cons_of_next hexec [], hcfg, by rw [State.emit_output, hout]⟩

end

/-! ### The chunk that the bounded buffer stands for (R31, R183) -/

/-- `chunk` is what has been pushed since the last terminator: the buffer holds its first `RxCap` bytes, and `RXD_OVF`
says whether there were more. -/
structure State.HoldsChunk (s : State) (chunk : List Byte) : Prop where
  terminator_notMem : terminator ∉ chunk
  rxdBuf_eq : s.rxdBuf = chunk.take (rxCap s.cfg)
  rxdOvf_eq : s.rxdOvf = decide (rxCap s.cfg < chunk.length)

section
variable {s : State} {b : Byte} {chunk : List Byte}

theorem State.holdsChunk_nil (hbuf : s.rxdBuf = []) (hovf : s.rxdOvf = false) : s.HoldsChunk [] :=
  ⟨List.not_mem_nil, by rw [hbuf, List.take_nil], hovf⟩

theorem State.HoldsChunk.emit (h : s.HoldsChunk chunk) (p : List Byte) : (s.emit p).HoldsChunk chunk := by
  obtain ⟨hfree, hbuf, hovf⟩ := h
  exact ⟨hfree, hbuf, hovf⟩

theorem State.HoldsChunk.rxdBuf_eq_self (h : s.HoldsChunk chunk) (hfits : chunk.length ≤ rxCap s.cfg) :
    s.rxdBuf = chunk := by
  rw [h.rxdBuf_eq, List.take_of_length_le hfits]

theorem State.HoldsChunk.rxdOvf_eq_false (h : s.HoldsChunk chunk) (hfits : chunk.length ≤ rxCap s.cfg) :
    s.rxdOvf = false :=
  h.rxdOvf_eq.trans (decide_eq_false hfits.not_gt)

theorem State.HoldsChunk.room_iff (h : s.HoldsChunk chunk) :
    s.rxdBuf.length < rxCap s.cfg ↔ chunk.length < rxCap s.cfg := by
  rw [h.rxdBuf_eq, List.length_take]
  omega

theorem State.HoldsChunk.storeByte (h : s.HoldsChunk chunk) (hb : b ≠ terminator)
    (hroom : s.rxdBuf.length < rxCap s.cfg) : (s.storeByte b).HoldsChunk (chunk ++ [b]) := by
  have hshort := h.room_iff.mp hroom
  have hfits : (chunk ++ [b]).length ≤ rxCap s.cfg := by simpa using hshort
  refine ⟨by simp [h.terminator_notMem, hb.symm], ?_, ?_⟩
  · rw [State.storeByte_rxdBuf, State.storeByte_cfg, h.rxdBuf_eq_self hshort.le, List.take_of_length_le hfits]
  · exact (h.rxdOvf_eq_false hshort.le).trans (decide_eq_false hfits.not_gt).symm

theorem State.HoldsChunk.setOverflow (h : s.HoldsChunk chunk) (hb : b ≠ terminator)
    (hfull : ¬s.rxdBuf.length < rxCap s.cfg) : s.setOverflow.HoldsChunk (chunk ++ [b]) := by
  have hlong : rxCap s.cfg ≤ chunk.length := Nat.not_lt.mp (mt h.room_iff.mpr hfull)
  refine ⟨by simp [h.terminator_notMem, hb.symm], ?_, ?_⟩
  · rw [State.setOverflow_rxdBuf, State.setOverflow_cfg, h.rxdBuf_eq, List.take_append_of_le_length hlong]
  · exact (decide_eq_true (by simpa [Nat.lt_succ_iff] using hlong)).symm

/-- A data byte is answered PENDING in every state, and makes the chunk one byte longer (R181). -/
theorem feeds_data (hb : b ≠ terminator) (s : State) :
    ∃ t, Feeds s [b] [responsePacket .pending []] t ∧ ∀ chunk, s.HoldsChunk chunk → t.HoldsChunk (chunk ++ [b]) := by
  by_cases hroom : s.rxdBuf.length < rxCap s.cfg
  · exact ⟨_, .of_exec (exec_rxdPush_of_room hb hroom) rfl rfl, fun _ h => (h.storeByte hb hroom).emit _⟩
  · exact ⟨_, .of_exec (exec_rxdPush_of_full hb hroom) rfl rfl, fun _ h => (h.setOverflow hb hroom).emit _⟩

/-- A terminator is answered somehow in every state, and begins a new chunk (R181). -/
theorem feeds_terminator (s : State) : ∃ response t, Feeds s [terminator] [response] t ∧ t.HoldsChunk [] := by
  obtain ⟨st, data, hpush, -⟩ := pushTerminator_eq s
  exact ⟨_, _, .of_exec hpush rfl rfl, State.holdsChunk_nil rfl rfl⟩

/-- The status and the data that answer an outcome of `DecodeFrame` (R121, R181). -/
def decodeAnswer (c : Config) : DecodeResult → Status × List Byte
  | .frame f => (.ok, rawFrame c f)
  | .formatError cause => (.formatError, [cause.code])
  | .checksumError received computed => (.checksumError, le16 received ++ le16 computed)

theorem respondDecode_eq_respond (r : DecodeResult) (s : State) :
    respondDecode r s = respond (decodeAnswer s.cfg r).1 (decodeAnswer s.cfg r).2 s := by
  cases r <;> rfl

/-- A terminator after a chunk that fits the buffer: the answer is that of decoding the chunk. -/
theorem State.HoldsChunk.feeds_terminator_of_fits (h : s.HoldsChunk chunk) (hfits : chunk.length ≤ rxCap s.cfg) :
    ∃ t, Feeds s [terminator] [responsePacket (decodeAnswer s.cfg (decodeFrame s.cfg (chunk ++ [terminator]))).1
      (decodeAnswer s.cfg (decodeFrame s.cfg (chunk ++ [terminator]))).2] t ∧ t.HoldsChunk [] := by
  have hexec := exec_rxdPush_terminator_of_not_ovf (h.rxdOvf_eq_false hfits)
  rw [h.rxdBuf_eq_self hfits, exec, execFrmDecode, respondDecode_eq_respond] at hexec
  exact ⟨_, .of_exec hexec rfl rfl, State.holdsChunk_nil rfl rfl⟩

/-- A terminator after a chunk that does not fit: the answer is OVERFLOW. -/
theorem State.HoldsChunk.feeds_terminator_of_long (h : s.HoldsChunk chunk) (hlong : rxCap s.cfg < chunk.length) :
    ∃ t, Feeds s [terminator] [responsePacket .formatError [Cause.overflow.code]] t ∧ t.HoldsChunk [] :=
  ⟨_, .of_exec (exec_rxdPush_terminator_of_ovf (h.rxdOvf_eq.trans (decide_eq_true hlong))) rfl rfl,
    State.holdsChunk_nil rfl rfl⟩

end

/-! ### The bounded and the unbounded delimiter (R183) -/

theorem unboundedFeed_data (c : Config) (chunk : List Byte) {b : Byte} (hb : b ≠ terminator) (rest : List Byte) :
    unboundedFeed c chunk (b :: rest) = ⟨.pending, [], chunk.length⟩ :: unboundedFeed c (chunk ++ [b]) rest := by
  rw [unboundedFeed, if_pos hb]

theorem unboundedFeed_terminator (c : Config) (chunk rest : List Byte) :
    unboundedFeed c chunk (terminator :: rest) =
      ⟨(decodeAnswer c (decodeFrame c (chunk ++ [terminator]))).1,
        (decodeAnswer c (decodeFrame c (chunk ++ [terminator]))).2, chunk.length⟩ :: unboundedFeed c [] rest := by
  rw [unboundedFeed, if_neg (not_not.mpr rfl)]
  cases decodeFrame c (chunk ++ [terminator]) <;> rfl

/-- R107: a chunk longer than `RxCap` fails at the stuffing or is too long. -/
theorem decodeFrame_of_long {c : Config} {chunk : List Byte} (hfree : terminator ∉ chunk)
    (hlong : rxCap c < chunk.length) :
    decodeFrame c (chunk ++ [terminator]) = .formatError .badStuffing ∨
      decodeFrame c (chunk ++ [terminator]) = .formatError .tooLong := by
  obtain ⟨hnone | ⟨raw, hraw, hraw_long⟩, -⟩ := longBodiesNeverDecode.2 c chunk hfree hlong
  · rw [decodeFrame_append_terminator, if_neg hfree, hnone]
    exact .inl rfl
  · rw [decodeFrame_of_unstuff hfree hraw, checkRaw_of_long hraw_long]
    exact .inr rfl

/-- R183 for one push: the same answer, or OVERFLOW for the cause of a chunk longer than `RxCap`. -/
def AnswersAsUnbounded (c : Config) (a : Status × List Byte) (u : UnboundedAnswer) : Prop :=
  a.1 = u.status ∧ (a.2 = u.data ∨ (rxCap c < u.chunkLength ∧ a.1 = .formatError ∧ a.2 = [Cause.overflow.code] ∧
    (u.data = [Cause.badStuffing.code] ∨ u.data = [Cause.tooLong.code])))

theorem answersAsUnbounded_self (c : Config) (a : Status × List Byte) (n : Nat) :
    AnswersAsUnbounded c a ⟨a.1, a.2, n⟩ :=
  ⟨rfl, .inl rfl⟩

theorem overflow_answersAsUnbounded {c : Config} {chunk : List Byte} (hfree : terminator ∉ chunk)
    (hlong : rxCap c < chunk.length) :
    AnswersAsUnbounded c (.formatError, [Cause.overflow.code])
      ⟨(decodeAnswer c (decodeFrame c (chunk ++ [terminator]))).1,
        (decodeAnswer c (decodeFrame c (chunk ++ [terminator]))).2, chunk.length⟩ := by
  obtain hres | hres := decodeFrame_of_long hfree hlong
  · rw [hres]
    exact ⟨rfl, .inr ⟨hlong, rfl, rfl, .inl rfl⟩⟩
  · rw [hres]
    exact ⟨rfl, .inr ⟨hlong, rfl, rfl, .inr rfl⟩⟩

/-- One push on both sides: the answers agree, and both hold the same chunk again. -/
theorem State.HoldsChunk.push_answersAsUnbounded {s : State} {chunk : List Byte} (h : s.HoldsChunk chunk) (b : Byte) :
    ∃ t a u chunk', Feeds s [b] [responsePacket a.1 a.2] t ∧ t.HoldsChunk chunk' ∧ AnswersAsUnbounded s.cfg a u ∧
      ∀ rest, unboundedFeed s.cfg chunk (b :: rest) = u :: unboundedFeed s.cfg chunk' rest := by
  by_cases hb : b = terminator
  · subst hb
    by_cases hfits : chunk.length ≤ rxCap s.cfg
    · obtain ⟨t, hfeeds, ht⟩ := h.feeds_terminator_of_fits hfits
      exact ⟨t, _, _, [], hfeeds, ht, answersAsUnbounded_self _ _ _, unboundedFeed_terminator _ _⟩
    · obtain ⟨t, hfeeds, ht⟩ := h.feeds_terminator_of_long (Nat.not_le.mp hfits)
      exact ⟨t, (_, _), _, [], hfeeds, ht,
        overflow_answersAsUnbounded h.terminator_notMem (Nat.not_le.mp hfits), unboundedFeed_terminator _ _⟩
  · obtain ⟨t, hfeeds, ht⟩ := feeds_data hb s
    exact ⟨t, (_, _), _, _, hfeeds, ht chunk h, answersAsUnbounded_self _ (_, _) _, unboundedFeed_data _ _ hb⟩

/-- The simulation of the unbounded delimiter, by induction over the pushed bytes. -/
theorem State.HoldsChunk.feed_answersAsUnbounded {s : State} {chunk : List Byte} (h : s.HoldsChunk chunk)
    (bytes : List Byte) :
    ∃ (t : State) (answers : List (Status × List Byte)),
      Feeds s bytes (answers.map fun a => responsePacket a.1 a.2) t ∧
      List.Forall₂ (AnswersAsUnbounded s.cfg) answers (unboundedFeed s.cfg chunk bytes) := by
  induction bytes generalizing s chunk with
  | nil => exact ⟨s, [], .nil s, .nil⟩
  | cons b rest ih =>
    obtain ⟨s', a, u, chunk', hpush, hs', hagree, hunbounded⟩ := h.push_answersAsUnbounded b
    obtain ⟨t, answers, hrest, hall⟩ := ih hs'
    rw [hpush.cfg_eq] at hall
    exact ⟨t, a :: answers, hpush.trans hrest, hunbounded rest ▸ .cons hagree hall⟩

/-- Settles O35: the chunk of both sides is empty at first, and every push keeps it the same. -/
theorem boundedBufferIsInvisibleInStatuses : Obligations.BoundedBufferIsInvisibleInStatuses := by
  intro s bytes hbuf hovf
  obtain ⟨t, answers, hfeeds, hall⟩ := (State.holdsChunk_nil hbuf hovf).feed_answersAsUnbounded bytes
  exact ⟨t, answers, hfeeds.feed_eq, hfeeds.output_eq, hall⟩

/-! ### Resynchronisation (R184) -/

/-- Bytes without a terminator are each answered PENDING in every state, and make the chunk longer. -/
theorem feeds_body {body : List Byte} (hfree : terminator ∉ body) (s : State) :
    ∃ t, Feeds s body (List.replicate body.length (responsePacket .pending [])) t ∧
      ∀ chunk, s.HoldsChunk chunk → t.HoldsChunk (chunk ++ body) := by
  induction body generalizing s with
  | nil => exact ⟨s, .nil s, fun chunk h => (List.append_nil chunk).symm ▸ h⟩
  | cons b body ih =>
    obtain ⟨s', hpush, hs'⟩ := feeds_data (List.ne_of_not_mem_cons hfree).symm s
    obtain ⟨t, hbody, ht⟩ := ih (List.not_mem_of_not_mem_cons hfree) s'
    exact ⟨t, hpush.trans hbody, fun chunk h => List.append_cons chunk b body ▸ ht _ (hs' chunk h)⟩

theorem encodeMessage_eq (c : Config) (m : Byte × List Byte) :
    encodeMessage c m = stuff c.stuffAlg (rawMessage c m) ++ [terminator] := rfl

theorem messageResponses_eq (c : Config) (m : Byte × List Byte) :
    messageResponses c m =
      List.replicate (stuff c.stuffAlg (rawMessage c m)).length (responsePacket .pending []) ++
        [responsePacket .ok (rawMessage c m)] := by
  rw [messageResponses, encodeMessage_eq, List.length_append]
  rfl

/-- The stream of a legal message, pushed on an empty chunk: its body fits, and decodes to the message. -/
theorem feeds_encodeMessage {s : State} (h : s.HoldsChunk []) {m : Byte × List Byte}
    (hlegal : m.2.length ≤ s.cfg.maxPayload.val) :
    ∃ t, Feeds s (encodeMessage s.cfg m) (messageResponses s.cfg m) t ∧ t.HoldsChunk [] := by
  have hcap : (encodeMessage s.cfg m).length ≤ rxCap s.cfg + 1 := encodeFrame_length_le s.cfg m.1 hlegal
  have hdecode : decodeFrame s.cfg (encodeMessage s.cfg m) = .frame ⟨m.1, m.2, frameChecksum s.cfg m.1 m.2⟩ :=
    decodeFrame_encodeFrame hlegal
  rw [encodeMessage_eq] at hcap hdecode
  rw [encodeMessage_eq, messageResponses_eq]
  obtain ⟨s', hbody, hs'⟩ := feeds_body (terminator_notMem_stuff s.cfg.stuffAlg (rawMessage s.cfg m)) s
  have hfits : ([] ++ stuff s.cfg.stuffAlg (rawMessage s.cfg m)).length ≤ rxCap s'.cfg := by
    simpa [hbody.cfg_eq] using hcap
  obtain ⟨t, hend, ht⟩ := (hs' [] h).feeds_terminator_of_fits hfits
  rw [hbody.cfg_eq, List.nil_append, hdecode] at hend
  exact ⟨t, hbody.trans hend, ht⟩

theorem feeds_messages {s : State} (h : s.HoldsChunk []) {messages : List (Byte × List Byte)}
    (hlegal : ∀ m ∈ messages, m.2.length ≤ s.cfg.maxPayload.val) :
    ∃ t, Feeds s (messages.flatMap (encodeMessage s.cfg)) (messages.flatMap (messageResponses s.cfg)) t := by
  induction messages generalizing s with
  | nil => exact ⟨s, .nil s⟩
  | cons m messages ih =>
    obtain ⟨hm, hmessages⟩ := List.forall_mem_cons.mp hlegal
    obtain ⟨s', hfirst, hs'⟩ := feeds_encodeMessage h hm
    obtain ⟨t, hrest⟩ := ih hs' (hfirst.cfg_eq ▸ hmessages)
    rw [hfirst.cfg_eq] at hrest
    exact ⟨t, hfirst.trans hrest⟩

/-- Settles O36: the first terminator leaves the empty chunk, from which each message is received. -/
theorem delimiterResynchronises : Obligations.DelimiterResynchronises := by
  refine fun s messages hlegal => ⟨fun g hfree => ?_, fun hbuf hovf => ?_⟩
  · obtain ⟨s₁, hgarbage, -⟩ := feeds_body hfree s
    obtain ⟨first, s₂, hterm, hs₂⟩ := feeds_terminator s₁
    have hsync := hgarbage.trans hterm
    obtain ⟨t, hmessages⟩ := feeds_messages hs₂ (hsync.cfg_eq ▸ hlegal)
    rw [hsync.cfg_eq] at hmessages
    have hall := hsync.trans hmessages
    refine ⟨t, first, hall.feed_eq, ?_⟩
    rw [hall.output_eq, ← List.append_assoc, ← List.append_assoc]
    rfl
  · obtain ⟨t, hmessages⟩ := feeds_messages (State.holdsChunk_nil hbuf hovf) hlegal
    exact ⟨t, hmessages.feed_eq, hmessages.output_eq⟩

end Sys2Proof.Machine

/-! Proofs of the statements of 44_system.md: the rules of SYS.NOP, SYS.RESET and SYS.STATUS (R200 to R202). -/

namespace Sys2Proof.Machine

/-! ### What SYS.STATUS shows (R202) -/

/-- The sum of R202 is the packing of the three flags, `C16_VALID` lowest, filled up with zero bits. -/
theorem statusFlags_eq_setWidth' (s : State) :
    statusFlags s = (BitVec.ofBoolListLE [s.c16Valid, s.c32Valid, s.rxdOvf]).setWidth' (by simp) := by
  rw [statusFlags]
  generalize s.c16Valid = v16, s.c32Valid = v32, s.rxdOvf = ovf
  revert v16 v32 ovf
  decide

theorem getLsbD_statusFlags (s : State) (k : Nat) :
    (statusFlags s).getLsbD k = [s.c16Valid, s.c32Valid, s.rxdOvf].getD k false := by
  rw [statusFlags_eq_setWidth', BitVec.getLsbD_setWidth', BitVec.getLsbD_ofBoolListLE]

/-- The largest chunk of the largest build has a length of 16 bits (10_state.md R20; 00_scope.md R8). -/
theorem rxCap_lt_two_pow (c : Config) : rxCap c < 2 ^ 16 := by
  have hmax := c.maxPayload.isLt
  rw [rxCap, rawMax]
  omega

theorem State.Inv.rxdLen_toNat {s : State} (h : s.Inv) : s.rxdLen.toNat = s.rxdBuf.length := by
  obtain ⟨hfits, -, -⟩ := h
  exact Nat.mod_eq_of_lt (hfits.trans_lt (rxCap_lt_two_pow s.cfg))

/-- The response with three data bytes: `RLEN` is 3, low byte first (30_encoding.md R72). -/
theorem responsePacket_three_bytes (st : Status) (a b c : Byte) :
    responsePacket st [a, b, c] = [st.code, 0x03, 0x00, a, b, c] := by
  rw [responsePacket, List.length_cons, List.length_cons, List.length_singleton]
  rfl

/-! ### The commands, each by its own rule (R200 to R202) -/

theorem exec_sysNop_nil (s : State) : exec (.sysNop []) s = .next (s.emit (responsePacket .ok [])) := rfl

theorem exec_sysStatus_nil (s : State) :
    exec (.sysStatus []) s = .next (s.emit (responsePacket .ok (statusFlags s :: le16 s.rxdLen))) := rfl

/-- Settles O22: without an operand by its own rule, any other length by the rule of every command. -/
theorem sysNopAnswersOk : Obligations.SysNopAnswersOk := by
  refine fun opd s => ⟨fun hlen => exec_of_not_lenAccepted (decide_eq_false hlen), fun hlen => ?_⟩
  obtain rfl := List.length_eq_zero_iff.mp hlen
  exact exec_sysNop_nil s

/-- Settles O23: the running registers hold the free values drawn, whatever these are. -/
theorem sysResetClearsFlagsAndChunk : Obligations.SysResetClearsFlagsAndChunk := by
  refine fun opd s => ⟨fun hlen => exec_of_not_lenAccepted (decide_eq_false hlen), fun hlen => ?_⟩
  obtain rfl := List.length_eq_zero_iff.mp hlen
  exact ⟨_, _, _, exec_sysReset_nil s⟩

/-- Settles O24: the flags byte is read bit by bit, the two bytes of the length put it together again, and under the
invariant the chunk is short enough for it. -/
theorem sysStatusShowsFlagsAndLength : Obligations.SysStatusShowsFlagsAndLength := by
  refine fun opd s => ⟨fun hlen => exec_of_not_lenAccepted (decide_eq_false hlen), fun hlen => ?_⟩
  obtain rfl := List.length_eq_zero_iff.mp hlen
  obtain ⟨lo, hi, hbytes, -, -, -, hvalue⟩ := le16_bytes s.rxdLen
  have hsum : lo.toNat + 256 * hi.toNat = s.rxdLen.toNat := hvalue ▸ (unle16_toNat lo hi).symm
  refine ⟨statusFlags s, lo, hi, ?_, getLsbD_statusFlags s 0, getLsbD_statusFlags s 1, getLsbD_statusFlags s 2,
    fun k hk => ?_, hsum, fun hinv => hsum.trans hinv.rxdLen_toNat⟩
  · rw [exec_sysStatus_nil, hbytes, responsePacket_three_bytes]
    rfl
  · rw [getLsbD_statusFlags, List.getD_eq_default _ _ hk]

end Sys2Proof.Machine

/-! Proofs of the statements of 60_exceptions.md: the errors each command answers with and their data (R220), and what an
error leaves unchanged (R223). -/

namespace Sys2Proof.Machine

/-! ### The errors of a decode (R220) -/

/-- An error of `DecodeFrame` with the data the table gives for it. -/
def DecodeError (st : Status) (data : List Byte) : Prop :=
  (st = .formatError ∨ st = .checksumError) ∧ errorData st data

theorem decodeError_formatError (cause : Cause) : DecodeError .formatError [cause.code] :=
  ⟨.inl rfl, cause, rfl⟩

theorem checkRaw_checksumError_ne {c : Config} {raw : List Byte} {received computed : BitVec 16}
    (h : checkRaw c raw = .checksumError received computed) : received ≠ computed := by
  obtain ⟨-, hres⟩ | ⟨-, -, hres⟩ | ⟨k0, k1, id, payload, -, -, hres⟩ := checkRaw_cases c raw
  · simp [hres] at h
  · simp [hres] at h
  · rw [hres] at h
    split_ifs at h with heq
    obtain ⟨rfl, rfl⟩ := DecodeResult.checksumError.inj h
    exact heq

/-- A checksum error comes only from the checks on the unstuffed body, so the two checksums differ (R110). -/
theorem decodeFrame_checksumError_ne {c : Config} {stream : List Byte} {received computed : BitVec 16}
    (h : decodeFrame c stream = .checksumError received computed) : received ≠ computed := by
  rw [decodeFrame] at h
  split_ifs at h
  cases hraw : unstuff c.stuffAlg stream.dropLast with
  | none => simp [hraw] at h
  | some raw => exact checkRaw_checksumError_ne (by simpa [hraw] using h)

theorem decodeError_of_checksumError {c : Config} {stream : List Byte} {received computed : BitVec 16}
    (h : decodeFrame c stream = .checksumError received computed) :
    DecodeError .checksumError (le16 received ++ le16 computed) :=
  ⟨.inr rfl, received, computed, decodeFrame_checksumError_ne h, rfl⟩

/-! ### The errors of a command, with the state each leaves (R220, R223) -/

/-- The error answers a command may give in `s`: status, data, and the state before the answer is appended. -/
inductive ErrorAnswer (s : State) : Instr → Status → List Byte → State → Prop where
  | badLength {i : Instr} : .badLength ∈ errorStatusesOf i → ErrorAnswer s i .badLength [] s
  | notInit {i : Instr} : .notInit ∈ errorStatusesOf i → ErrorAnswer s i .notInit [] s
  | frmDecode {opd : List Byte} {st : Status} {data : List Byte} :
      DecodeError st data → ErrorAnswer s (.frmDecode opd) st data s
  | endChunk {st : Status} {data : List Byte} :
      DecodeError st data → ErrorAnswer s (.rxdPush [terminator]) st data s.clearChunk

theorem ErrorAnswer.in_table {s s' : State} {i : Instr} {st : Status} {data : List Byte}
    (h : ErrorAnswer s i st data s') : st ∈ errorStatusesOf i ∧ errorData st data := by
  cases h with
  | badLength hlisted => exact ⟨hlisted, rfl⟩
  | notInit hlisted => exact ⟨hlisted, rfl⟩
  | frmDecode hdec => exact ⟨by simpa [errorStatusesOf] using hdec.1, hdec.2⟩
  | endChunk hdec => exact ⟨by simpa [errorStatusesOf] using .inr hdec.1, hdec.2⟩

/-- The outcome is one response, and if that is an error, it is one of the error answers of the command. -/
def ErrsByTable (s : State) (i : Instr) (o : Host.Outcome State Fault Refusal) : Prop :=
  Answers s (fun st data => st.isError = true → ∃ s', o = respond st data s' ∧ ErrorAnswer s i st data s') o

section
variable {s s' : State} {i : Instr} {o : Host.Outcome State Fault Refusal}

theorem errsByTable_respond {st : Status} {data : List Byte} (hout : s'.output = s.output)
    (herr : st.isError = true → ErrorAnswer s i st data s') : ErrsByTable s i (respond st data s') :=
  answers_respond hout fun he => ⟨s', rfl, herr he⟩

theorem errsByTable_ok {data : List Byte} (hout : s'.output = s.output) : ErrsByTable s i (respond .ok data s') :=
  errsByTable_respond hout nofun

theorem errsByTable_badLength (hlisted : .badLength ∈ errorStatusesOf i) : ErrsByTable s i (badLength s) :=
  errsByTable_respond rfl fun _ => .badLength hlisted

theorem errsByTable_notInit (hlisted : .notInit ∈ errorStatusesOf i) : ErrsByTable s i (notInit s) :=
  errsByTable_respond rfl fun _ => .notInit hlisted

/-- A command that must have no operand. -/
theorem errsByTable_noOperand {opd : List Byte} (hlisted : .badLength ∈ errorStatusesOf i) (ho : ErrsByTable s i o) :
    ErrsByTable s i (if noOperand opd then o else badLength s) := by
  split_ifs
  · exact ho
  · exact errsByTable_badLength hlisted

/-- A command that is answered NOT_INIT when its engine is not valid. -/
theorem errsByTable_valid {valid : Bool} (hlisted : .notInit ∈ errorStatusesOf i) (ho : ErrsByTable s i o) :
    ErrsByTable s i (if valid then o else notInit s) := by
  split_ifs
  · exact ho
  · exact errsByTable_notInit hlisted

/-- A command that may answer the errors of a decode in `s'`. -/
theorem errsByTable_respondDecode {stream : List Byte} (hout : s'.output = s.output)
    (herr : ∀ st data, DecodeError st data → ErrorAnswer s i st data s') :
    ErrsByTable s i (respondDecode (decodeFrame s'.cfg stream) s') := by
  cases hdec : decodeFrame s'.cfg stream with
  | frame f => exact errsByTable_ok hout
  | formatError cause => exact errsByTable_respond hout fun _ => herr _ _ (decodeError_formatError cause)
  | checksumError received computed =>
    exact errsByTable_respond hout fun _ => herr _ _ (decodeError_of_checksumError hdec)

end

theorem errsByTable_pushData {s : State} {i : Instr} (b : Byte) : ErrsByTable s i (pushData b s) :=
  errsByTable_respond (by split_ifs <;> rfl) nofun

theorem errsByTable_pushTerminator (s : State) : ErrsByTable s (.rxdPush [terminator]) (pushTerminator s) := by
  rw [pushTerminator]
  split_ifs
  · exact errsByTable_respond rfl fun _ => .endChunk (decodeError_formatError .overflow)
  · exact errsByTable_respondDecode (s' := s.clearChunk) rfl fun _ _ => .endChunk

theorem errsByTable_rxdPush (opd : List Byte) (s : State) : ErrsByTable s (.rxdPush opd) (exec (.rxdPush opd) s) := by
  cases hopd : oneByte opd with
  | none =>
    rw [exec, execRxdPush, hopd]
    exact errsByTable_badLength (by simp [errorStatusesOf])
  | some b =>
    obtain rfl := oneByte_eq_some.mp hopd
    by_cases hb : b = terminator
    · exact hb ▸ errsByTable_pushTerminator s
    · exact exec_rxdPush_data hb s ▸ errsByTable_pushData b

theorem exec_errsByTable (i : Instr) (s : State) : ErrsByTable s i (exec i s) := by
  cases i with
  | sysNop opd | sysReset opd | sysStatus opd | c16Init opd | c32Init opd | rxdFlush opd =>
    exact errsByTable_noOperand (by simp [errorStatusesOf]) (errsByTable_ok rfl)
  | frmEncode opd =>
    rw [exec, execFrmEncode]
    cases idAndPayload s.cfg opd with
    | none => exact errsByTable_badLength (by simp [errorStatusesOf])
    | some a => exact errsByTable_ok rfl
  | frmDecode opd => exact errsByTable_respondDecode rfl fun _ _ => .frmDecode
  | c16Update opd | c32Update opd => exact errsByTable_valid (by simp [errorStatusesOf]) (errsByTable_ok rfl)
  | c16Final opd | c32Final opd =>
    exact errsByTable_noOperand (by simp [errorStatusesOf])
      (errsByTable_valid (by simp [errorStatusesOf]) (errsByTable_ok rfl))
  | rxdPush opd => exact errsByTable_rxdPush opd s

/-- Settles O10: each error answer of a command is in the table. -/
theorem errorsAreThoseOfTheTable : Obligations.ErrorsAreThoseOfTheTable := by
  intro i s t h
  obtain ⟨t', st, data, hexec, hout, herr⟩ := exec_errsByTable i s
  obtain rfl := next_unique hexec h
  refine ⟨st, data, hout, fun he => ?_⟩
  obtain ⟨s', -, hans⟩ := herr he
  exact hans.in_table

/-- An error read off the output is one of the error answers of the command, and fixes the next state. -/
theorem errorAnswer_of_exec {i : Instr} {s t : State} {st : Status} {data : List Byte} (h : exec i s = .next t)
    (hout : t.output = s.output ++ [responsePacket st data]) (he : st.isError = true) :
    ∃ s', ErrorAnswer s i st data s' ∧ t = s'.emit (responsePacket st data) := by
  obtain ⟨s', hexec, hans⟩ := (exec_errsByTable i s).of_output h hout he
  exact ⟨s', hans, respond_eq_next.mp (hexec.symm.trans h)⟩

theorem ErrorAnswer.unchanged_of_badLength_or_notInit {s s' : State} {i : Instr} {st : Status} {data : List Byte}
    (h : ErrorAnswer s i st data s') (hst : st = .badLength ∨ st = .notInit) : s' = s := by
  cases h with
  | badLength | notInit | frmDecode => rfl
  | endChunk hdec => obtain ⟨rfl | rfl, -⟩ := hdec <;> simp at hst

theorem ErrorAnswer.source_of_decodeError {s s' : State} {i : Instr} {st : Status} {data : List Byte}
    (h : ErrorAnswer s i st data s') (hst : st = .formatError ∨ st = .checksumError) :
    (∃ opd, i = .frmDecode opd ∧ s' = s) ∨ (i = .rxdPush [terminator] ∧ s' = s.clearChunk) := by
  cases h with
  | badLength | notInit => simp at hst
  | frmDecode => exact .inl ⟨_, rfl, rfl⟩
  | endChunk => exact .inr ⟨rfl, rfl⟩

/-- Settles O19: the state left by each error answer, the one answer of FRM.DECODE, the step on a reserved opcode. -/
theorem errorsChangeNothingButTheChunk : Obligations.ErrorsChangeNothingButTheChunk := by
  refine ⟨fun i s t st data h hout => ⟨fun hst => ?_, fun hst => ?_⟩,
    fun opd s => ⟨_, respondDecode_eq _ s⟩, fun s p rest opc hin hdec => step_of_decode_illegalOp hin hdec⟩
  · obtain ⟨s', hans, rfl⟩ := errorAnswer_of_exec h hout (by obtain rfl | rfl := hst <;> rfl)
    rw [hans.unchanged_of_badLength_or_notInit hst]
  · obtain ⟨s', hans, rfl⟩ := errorAnswer_of_exec h hout (by obtain rfl | rfl := hst <;> rfl)
    obtain ⟨opd, rfl, rfl⟩ | ⟨rfl, rfl⟩ := hans.source_of_decodeError hst
    · exact .inl ⟨opd, rfl, rfl⟩
    · exact .inr ⟨rfl, rfl⟩

end Sys2Proof.Machine

/-! Proofs of the statements of 70_reset_and_hazards.md: the specified reset values (R260), and SYS.RESET against the
hardware reset (R261). -/

namespace Sys2Proof.Machine

@[simp] theorem State.resetWith_rxdLen (c : Config) : (State.resetWith c).rxdLen = 0 := rfl

/-- Settles O20: the four elements that R260 gives a value, each by its own lemma. -/
theorem resetValues : Obligations.ResetValues :=
  fun c => ⟨State.resetWith_c16Valid c, State.resetWith_c32Valid c, State.resetWith_rxdLen c, State.resetWith_rxdOvf c⟩

/-- The units hold what a reset of the same build gives them: both running registers are invalid on the two sides, so
the free values of the one and the values chosen for the other need not agree. -/
theorem State.sameUnits_resetUnits_resetWith (s : State) : s.resetUnits.SameUnits (State.resetWith s.cfg) :=
  ⟨rfl, rfl, nofun, rfl, nofun, rfl, rfl⟩

/-- A response is no unit's element. -/
theorem State.SameUnits.emit_left {s t : State} (h : s.SameUnits t) (p : List Byte) : (s.emit p).SameUnits t := h

/-- Settles O21: SYS.RESET resets the units and appends the OK response, which has no data. -/
theorem sysResetLeavesTheResetState : Obligations.SysResetLeavesTheResetState :=
  fun s => ⟨_, exec_sysReset_nil s, s.sameUnits_resetUnits_resetWith.emit_left _, rfl⟩

end Sys2Proof.Machine
